-- ==== Sys2Proof/Word.lean ====
section
/-! DEFINITION. The word types of the block: the 32-bit color word, the 8-bit channel code, the exact intensity. -/

namespace Sys2Proof

/-- A color word as it crosses the pixel port: 32 bits in one transfer (R55, R83). -/
abbrev Word := BitVec 32

/-- A channel code `q8(c)`, 0 to 255 (R111). -/
abbrev Code := BitVec 8

/-- An intensity is an exact rational number (R11, R116). -/
abbrev Intensity := Rat

/-- The index of a sequence in the FrameLibrary: 4 bits, of which 0 to 12 name a sequence (R84, R131). -/
abbrev SeqId := BitVec 4

end Sys2Proof
end

