-- ==== Sys2Proof/Config.lean ====
section
/-! DEFINITION. The constant data of the block (CFG: bindings, sequence descriptors, frames), the sample of the
input wires, and the free values the spec leaves open. -/

namespace Sys2Proof

/-- The 16 symbols of the keypad (R82). -/
inductive KeyCode where
  | k0 | k1 | k2 | k3 | k4 | k5 | k6 | k7 | k8 | k9
  | kA | kB | kC | kD | star | hash
deriving DecidableEq, Repr, Inhabited

/-- The pixel-to-channel mapping policy (R85, R163 to R166). -/
inductive BlendMode where
  | solidFill
  | uniformColor
  | weightedBicolor
  | direct
deriving DecidableEq, Repr, Inhabited

/-- Channel select (R86). The fourth tag is reserved; a descriptor may hold it where the field is not read (U20). -/
inductive Chan where
  | r
  | g
  | b
  | reserved
deriving DecidableEq, Repr, Inhabited

/-- A colour `(r, g, b)`, red first (R11, R30). -/
structure Color where
  r : Intensity
  g : Intensity
  b : Intensity
deriving DecidableEq, Repr, Inhabited

/-- Whether the entries of a sequence's frames are single intensities or triples (R29, R145). -/
inductive EntryKind where
  | scalar
  | triple
deriving DecidableEq, Repr, Inhabited

/-- One entry of a frame: one intensity, or a triple of intensities (R50(a), R145). -/
inductive Entry where
  | scalar (e : Intensity)
  | triple (er eg eb : Intensity)
deriving DecidableEq, Repr, Inhabited

/-- A frame: its entries by frame position, row-major (R52, R56). Well-formed frames have 25 (R146(a)). -/
abbrev Frame := List Entry

/-- A sequence descriptor `CFG.SEQ[s]` (R29). -/
structure SeqDesc where
  nframes : Nat
  repeats : Nat
  delayMs : Nat
  kind    : EntryKind
deriving DecidableEq, Repr, Inhabited

/-- An entry of the FrameLibrary ROM's directory: a sequence's descriptor and the base address of its frames in the frame
table (R87, R51). -/
structure SeqEntry where
  desc : SeqDesc
  base : Nat
deriving DecidableEq, Repr, Inhabited

/-- An Action, the entry of the binding ROM and the content of `act` (R25, R30). -/
inductive Action where
  | noOp
  | turnOff
  | fillSolid (color : Color)
  | playSequence (seq : SeqId) (color : Color) (mode : BlendMode) (chan : Chan)
deriving DecidableEq, Repr, Inhabited

/-- The configuration `CFG` (R9): the binding ROM, the directory of the FrameLibrary and its frames.
Every KeyCode has an entry (R53, R230) and there are 13 sequences (R131), both by the fields' types. -/
structure Cfg where
  bind  : Vector Action 16
  seq   : Vector SeqDesc 13
  frame : Vector (List Frame) 13
deriving DecidableEq, Repr, Inhabited

/-- The input wires as one rising edge of `clk` samples them (R35, R250). -/
structure Input where
  keyValid : Bool
  keyCode  : BitVec 4
  ready    : Bool
  tick     : Bool
  rst      : Bool
deriving DecidableEq, Repr, Inhabited

/-- Free value: what the input wires show at an edge for which State holds no given sample: a draw under no law
(R32, R287; log 4). -/
opaque Config.freeInput (edge : Nat) : Input

/-- Free value: the intensity at position `pos` of frame `frame` of sequence `seq`, for the Scalar frames whose contents
the spec does not give (D18, N3; log 3). -/
opaque Config.pixel (seq frame pos : Nat) : Intensity

/-- Free value: the triple at position `pos` of a GHOST frame, whose contents the spec does not give (D18, N6; log 3). -/
opaque Config.ghostPixel (frame pos : Nat) : Color

/-- Free value: the glyph of a digit, 0 to 5, whose shape the spec does not give (R137, N3; log 3). -/
opaque Config.digitGlyph (digit pos : Nat) : Intensity

/-- Free value: what LED `j` of the string shows before anything was emitted (R301, R302, U16; log 13). -/
opaque Config.ledAtReset (j : Nat) : Word

/-- Free value: what LED `j` of the string shows after the reset at an edge cut a frame short (U18; log 13). -/
opaque Config.ledAfterCutFrame (edge j : Nat) : Word

/-- Free value: `pix_data` while `pix_valid = 0` (R38, U13; log 14). -/
opaque Config.idlePixData (edge : Nat) : Word

/-- Free value: the descriptor read for a SeqId that names no sequence, 13 to 15: the spec gives no `CFG.SEQ[s]` there and
no effect (R27, R131, R272). No run of a well-formed configuration reads it (log 26). -/
opaque Config.undefinedSeq (seq : Nat) : SeqDesc

/-- Free value: the colour at output index `i` of frame `f` where the spec defines none: NoOp has no word (R168), a read
outside the library is not defined (R52), a mode that does not fit the frame's kind has no meaning (R272). No run of a
well-formed configuration reads it (log 10). -/
opaque Config.undefinedColor (f i : Nat) : Color

end Sys2Proof
end

