-- ==== Sys2Proof/Syntax.lean ====
section
/-! DEFINITION. The commands and data formats of spec/opcode_table.json, one constructor a row. -/

namespace Sys2Proof

/-- One constructor for each of the 30 rows of spec/opcode_table.json. The KEY rows are the block's commands (R80);
the other rows are the data formats the sequencer executes: the Action descriptors (R84), the blend mode tags (R85), the
channel tags (R86) and the color word (R83). -/
inductive Instr where
  /-- NOKEY, `key_valid = 0`; the four code wires are ignored (R81, R226) and kept here so that encoding loses no bit. -/
  | nokey (ignored : BitVec 4)
  | key0
  | key1
  | key2
  | key3
  | key4
  | key5
  | key6
  | key7
  | key8
  | key9
  | keyA
  | keyB
  | keyC
  | keyD
  | keyStar
  | keyHash
  /-- Action NoOp, `kind = 0` (R203). -/
  | actNoop
  /-- Action TurnOff, `kind = 1` (R204). -/
  | actTurnoff
  /-- Action FillSolid, `kind = 2`, the colour as channel codes (R205). -/
  | actFillsolid (cr cg cb : Code)
  /-- Action PlaySequence, `kind = 3` (R206). -/
  | actPlaysequence (seq : SeqId) (mode : BlendMode) (chan : Chan) (cr cg cb : Code)
  | modeSolidfill
  | modeUniformcolor
  | modeWeightedbicolor
  | modeDirect
  | chanR
  | chanG
  | chanB
  | chanReserved
  /-- The color word of the pixel port, by its three fields from bit 31 down (R83). -/
  | colorword (g r b : Code)
deriving DecidableEq, Repr, Inhabited

end Sys2Proof
end

