-- ==== Sys2Proof/WellFormed.lean ====
section
/-! DEFINITION. Which instructions are well-formed as syntax: the reserved tags and SeqIds are not (R86, R91(e)). -/

namespace Sys2Proof

/-- A SeqId names one of the 13 sequences (R131, R146(c)). -/
def SeqId.named (s : SeqId) : Bool := decide (s.toNat < 13)

/-- The channel field is one of R, G, B where the mode reads it (R86, R146(e)); elsewhere it is not read (U20). -/
def chanFits (mode : BlendMode) (chan : Chan) : Bool :=
  decide (mode = .uniformColor → chan ≠ .reserved)

/-- Well-formedness of an instruction: every operand that the instruction reads has a legal value.
CHAN_RESERVED itself is reserved (R86). -/
def Instr.wf : Instr → Bool
  | .actPlaysequence seq mode chan _ _ _ => seq.named && chanFits mode chan
  | .chanReserved => false
  | .nokey _ | .key0 | .key1 | .key2 | .key3 | .key4 | .key5 | .key6 | .key7 | .key8 | .key9
  | .keyA | .keyB | .keyC | .keyD | .keyStar | .keyHash
  | .actNoop | .actTurnoff | .actFillsolid _ _ _
  | .modeSolidfill | .modeUniformcolor | .modeWeightedbicolor | .modeDirect
  | .chanR | .chanG | .chanB | .colorword _ _ _ => true

end Sys2Proof
end

