-- ==== Sys2Proof/Decode.lean ====
section
/-! DEFINITION. The encodings of the spec: KeyCodes, tags, the KEY, ACT, MODE, CHAN and CW formats, the decoder (total,
rejecting by name), the encoder written from the same tables, and the reference SEQ word. -/

namespace Sys2Proof

/-! ### KeyCodes and tags -/

/-- The 4-bit number of a KeyCode (R82). -/
def KeyCode.code : KeyCode → BitVec 4
  | .k0 => 0x0 | .k1 => 0x1 | .k2 => 0x2 | .k3 => 0x3
  | .k4 => 0x4 | .k5 => 0x5 | .k6 => 0x6 | .k7 => 0x7
  | .k8 => 0x8 | .k9 => 0x9 | .kA => 0xA | .kB => 0xB
  | .kC => 0xC | .kD => 0xD | .star => 0xE | .hash => 0xF

/-- The KeyCode of a 4-bit number: all 16 values are used (R82). -/
def KeyCode.ofCode (c : BitVec 4) : KeyCode :=
  match c.toNat with
  | 0x0 => .k0 | 0x1 => .k1 | 0x2 => .k2 | 0x3 => .k3
  | 0x4 => .k4 | 0x5 => .k5 | 0x6 => .k6 | 0x7 => .k7
  | 0x8 => .k8 | 0x9 => .k9 | 0xA => .kA | 0xB => .kB
  | 0xC => .kC | 0xD => .kD | 0xE => .star | _ => .hash

/-- The key command of a KeyCode (R90). -/
def keyInstr : KeyCode → Instr
  | .k0 => .key0 | .k1 => .key1 | .k2 => .key2 | .k3 => .key3
  | .k4 => .key4 | .k5 => .key5 | .k6 => .key6 | .k7 => .key7
  | .k8 => .key8 | .k9 => .key9 | .kA => .keyA | .kB => .keyB
  | .kC => .keyC | .kD => .keyD | .star => .keyStar | .hash => .keyHash

/-- BlendMode tags (R85). -/
def BlendMode.tag : BlendMode → BitVec 2
  | .solidFill => 0
  | .uniformColor => 1
  | .weightedBicolor => 2
  | .direct => 3

/-- The BlendMode of a tag (R85). -/
def BlendMode.ofTag (t : BitVec 2) : BlendMode :=
  match t.toNat with
  | 0 => .solidFill
  | 1 => .uniformColor
  | 2 => .weightedBicolor
  | _ => .direct

/-- Channel select tags (R86). -/
def Chan.tag : Chan → BitVec 2
  | .r => 0
  | .g => 1
  | .b => 2
  | .reserved => 3

/-- The channel of a tag; 3 is reserved (R86). -/
def Chan.ofTag (t : BitVec 2) : Chan :=
  match t.toNat with
  | 0 => .r
  | 1 => .g
  | 2 => .b
  | _ => .reserved

/-- The kind bit of a sequence descriptor (R87). -/
def EntryKind.bit : EntryKind → BitVec 1
  | .scalar => 0
  | .triple => 1

/-- The entry kind of a descriptor's kind bit (R87). -/
def EntryKind.ofBit (b : BitVec 1) : EntryKind :=
  if b = 0 then .scalar else .triple

/-! ### Formats -/

/-- The five formats of spec/opcode_table.json. -/
inductive Format where
  | key
  | act
  | mode
  | chan
  | cw
deriving DecidableEq, Repr, Inhabited

/-- The width of a format in bits (R80, R83 to R86). The ACT word is the sum of R84's field widths. -/
def Format.width : Format → Nat
  | .key => 5
  | .act => 34
  | .mode => 2
  | .chan => 2
  | .cw => 32

/-- Why a word is no instruction of its format. -/
inductive DecodeError where
  /-- The number has bits above the format's width. -/
  | tooWide
  /-- An ACT word with `kind = 3` and SeqId 13 to 15 (R91(e)). -/
  | reservedSeqId
  /-- An ACT word with `kind = 3`, `mode = UniformColor` and `chan = 3` (R91(e)). -/
  | reservedChannel
  /-- A 32-bit word whose low byte is not zero is no color word (R83, R91(f)). -/
  | nonZeroLowByte
deriving DecidableEq, Repr

/-- An instruction's bits with the format they are read in. -/
structure Encoded where
  format : Format
  bits   : Nat
deriving DecidableEq, Repr

/-! ### The decoder -/

/-- KEY: exact match on all five bits for a key, bit 4 alone for "no key" (R81, R90). All 32 values are defined (R91(a)). -/
def decodeKey (w : BitVec 5) : Instr :=
  if w.getLsbD 4 then keyInstr (KeyCode.ofCode (w.extractLsb' 0 4)) else .nokey (w.extractLsb' 0 4)

/-- ACT: `kind` in bits 1 to 0 as the table's mask has it, then R84's fields in R84's order from bit 2 up (log 8).
Fields that the kind does not read are ignored (U20). -/
def decodeAct (w : BitVec 34) : Except DecodeError Instr :=
  match (w.extractLsb' 0 2).toNat with
  | 0 => .ok .actNoop
  | 1 => .ok .actTurnoff
  | 2 => .ok (.actFillsolid (w.extractLsb' 10 8) (w.extractLsb' 18 8) (w.extractLsb' 26 8))
  | _ =>
    let seq : SeqId := w.extractLsb' 2 4
    let mode := BlendMode.ofTag (w.extractLsb' 6 2)
    let chan := Chan.ofTag (w.extractLsb' 8 2)
    if seq.named = false then .error .reservedSeqId
    else if chanFits mode chan = false then .error .reservedChannel
    else .ok (.actPlaysequence seq mode chan (w.extractLsb' 10 8) (w.extractLsb' 18 8) (w.extractLsb' 26 8))

/-- The MODE row of a blend mode (R85). -/
def modeRow : BlendMode → Instr
  | .solidFill => .modeSolidfill
  | .uniformColor => .modeUniformcolor
  | .weightedBicolor => .modeWeightedbicolor
  | .direct => .modeDirect

/-- The CHAN row of a channel select (R86). -/
def chanRow : Chan → Instr
  | .r => .chanR
  | .g => .chanG
  | .b => .chanB
  | .reserved => .chanReserved

/-- CW: green in bits 31 to 24, red in 23 to 16, blue in 15 to 8, zero below (R83). -/
def decodeWord (w : Word) : Except DecodeError Instr :=
  if w.extractLsb' 0 8 = 0 then .ok (.colorword (w.extractLsb' 24 8) (w.extractLsb' 16 8) (w.extractLsb' 8 8))
  else .error .nonZeroLowByte

/-- The decoder: the instruction a number encodes in a format, or the name of the reason it encodes none. -/
def decode (f : Format) (bits : Nat) : Except DecodeError Instr :=
  if 2 ^ f.width ≤ bits then .error .tooWide
  else match f with
    | .key => .ok (decodeKey (BitVec.ofNat 5 bits))
    | .act => decodeAct (BitVec.ofNat 34 bits)
    | .mode => .ok (modeRow (BlendMode.ofTag (BitVec.ofNat 2 bits)))
    | .chan => .ok (chanRow (Chan.ofTag (BitVec.ofNat 2 bits)))
    | .cw => decodeWord (BitVec.ofNat 32 bits)

/-! ### The encoder -/

/-- The command word of a key: `1 ++ key_code` (R81, R93). -/
def encodeKey (k : KeyCode) : BitVec 5 := (1 : BitVec 1) ++ k.code

/-- The ACT word of R84's fields, `kind` in the lowest bits (log 8). -/
def encodeAct (kind : BitVec 2) (seq : SeqId) (mode : BlendMode) (chan : Chan) (cr cg cb : Code) : BitVec 34 :=
  (cb.setWidth 34 <<< 26) ||| (cg.setWidth 34 <<< 18) ||| (cr.setWidth 34 <<< 10) ||| (chan.tag.setWidth 34 <<< 8) |||
    (mode.tag.setWidth 34 <<< 6) ||| (seq.setWidth 34 <<< 2) ||| kind.setWidth 34

/-- The color word of three channel codes: `(G<<24)|(R<<16)|(B<<8)`, green in [31:24], red in [23:16], blue in [15:8], zero
below (R83, R113, R114). -/
def packWord (g r b : Code) : Word :=
  (g.setWidth 32 <<< 24) ||| (r.setWidth 32 <<< 16) ||| (b.setWidth 32 <<< 8)

/-- The encoder. A field that the row does not read is 0. -/
def encode : Instr → Encoded
  | .nokey c => ⟨.key, ((0 : BitVec 1) ++ c).toNat⟩
  | .key0 => ⟨.key, (encodeKey .k0).toNat⟩
  | .key1 => ⟨.key, (encodeKey .k1).toNat⟩
  | .key2 => ⟨.key, (encodeKey .k2).toNat⟩
  | .key3 => ⟨.key, (encodeKey .k3).toNat⟩
  | .key4 => ⟨.key, (encodeKey .k4).toNat⟩
  | .key5 => ⟨.key, (encodeKey .k5).toNat⟩
  | .key6 => ⟨.key, (encodeKey .k6).toNat⟩
  | .key7 => ⟨.key, (encodeKey .k7).toNat⟩
  | .key8 => ⟨.key, (encodeKey .k8).toNat⟩
  | .key9 => ⟨.key, (encodeKey .k9).toNat⟩
  | .keyA => ⟨.key, (encodeKey .kA).toNat⟩
  | .keyB => ⟨.key, (encodeKey .kB).toNat⟩
  | .keyC => ⟨.key, (encodeKey .kC).toNat⟩
  | .keyD => ⟨.key, (encodeKey .kD).toNat⟩
  | .keyStar => ⟨.key, (encodeKey .star).toNat⟩
  | .keyHash => ⟨.key, (encodeKey .hash).toNat⟩
  | .actNoop => ⟨.act, (encodeAct 0 0 .solidFill .r 0 0 0).toNat⟩
  | .actTurnoff => ⟨.act, (encodeAct 1 0 .solidFill .r 0 0 0).toNat⟩
  | .actFillsolid cr cg cb => ⟨.act, (encodeAct 2 0 .solidFill .r cr cg cb).toNat⟩
  | .actPlaysequence seq mode chan cr cg cb => ⟨.act, (encodeAct 3 seq mode chan cr cg cb).toNat⟩
  | .modeSolidfill => ⟨.mode, BlendMode.solidFill.tag.toNat⟩
  | .modeUniformcolor => ⟨.mode, BlendMode.uniformColor.tag.toNat⟩
  | .modeWeightedbicolor => ⟨.mode, BlendMode.weightedBicolor.tag.toNat⟩
  | .modeDirect => ⟨.mode, BlendMode.direct.tag.toNat⟩
  | .chanR => ⟨.chan, Chan.r.tag.toNat⟩
  | .chanG => ⟨.chan, Chan.g.tag.toNat⟩
  | .chanB => ⟨.chan, Chan.b.tag.toNat⟩
  | .chanReserved => ⟨.chan, Chan.reserved.tag.toNat⟩
  | .colorword g r b => ⟨.cw, (packWord g r b).toNat⟩

/-! ### The sequence descriptor word -/

/-- The descriptor's part of a SEQ word: `nframes` in bits 7 to 0, `repeat` in 15 to 8, `delay_ms` in 31 to 16, `kind` in bit 32 (widths R87, places log 17). -/
def SeqDesc.encode (d : SeqDesc) : BitVec 33 :=
  (d.kind.bit.setWidth 33 <<< 32) ||| ((BitVec.ofNat 16 d.delayMs).setWidth 33 <<< 16) |||
    ((BitVec.ofNat 8 d.repeats).setWidth 33 <<< 8) ||| (BitVec.ofNat 8 d.nframes).setWidth 33

/-- The descriptor in the lower 33 bits of a SEQ word (R87). -/
def SeqDesc.decode (w : BitVec 33) : SeqDesc :=
  { nframes := (w.extractLsb' 0 8).toNat
    repeats := (w.extractLsb' 8 8).toNat
    delayMs := (w.extractLsb' 16 16).toNat
    kind := EntryKind.ofBit (w.extractLsb' 32 1) }

/-- The SEQ word of a directory entry: the descriptor in bits 32 to 0 and the base address in bits 49 to 33. R87 leaves
the base's width to the layout: 17 bits hold every base address of R51's reference layout (log 17). -/
def SeqEntry.encode (e : SeqEntry) : BitVec 50 :=
  ((BitVec.ofNat 17 e.base).setWidth 50 <<< 33) ||| e.desc.encode.setWidth 50

/-- The directory entry of a SEQ word (R87). -/
def SeqEntry.decode (w : BitVec 50) : SeqEntry :=
  { desc := SeqDesc.decode (w.extractLsb' 0 33)
    base := (w.extractLsb' 33 17).toNat }

/-! ### The host's numbering of the table's words -/

/-- The format in which a table word of `nbits` bits, in whole bytes, is read: 32 bits are a color word, 40 bits an ACT
descriptor, one or two bytes the value of the key port. A MODE or CHAN tag is a field and never a word of its own (log 7). -/
def tableFormat (nbits : Nat) : Option Format :=
  if nbits ≤ 16 then some .key
  else if nbits = 32 then some .cw
  else if nbits = 40 then some .act
  else none

/-- The instruction read from a table word. The key port has five wires, so a key word's bits above bit 4 are not read;
the other formats reject what does not fit them (log 7). -/
def decodeTableWord (nbits w : Nat) : Option Instr :=
  match tableFormat nbits with
  | some .key => (decode .key (w % 32)).toOption
  | some f => (decode f w).toOption
  | none => none

end Sys2Proof
end

