-- ==== Sys2Proof/Machine/Library.lean ====
section
/-! DEFINITION. The FrameLibrary and the binding ROM: their reads, the well-formedness and conformance of a
configuration, the reference linear layout, and the reference configuration. -/

namespace Sys2Proof.Machine

/-! ### Sizes and names -/

/-- Pixels in a frame (R8). -/
def numPix : Nat := 25

/-- The highest output index of a frame (R24). -/
def lastPix : Nat := 24

/-- The hold after every handled key, in milliseconds (R8). -/
def debounceMs : Nat := 200

/-- The SeqIds of the 13 sequences (R131). -/
def seqRed08 : SeqId := 0
def seqWhite02 : SeqId := 1
def seqBlue10 : SeqId := 2
def seqOff : SeqId := 3
def seqHeart : SeqId := 4
def seqCount : SeqId := 5
def seqSquare : SeqId := 6
def seqArrow : SeqId := 7
def seqGhost : SeqId := 8
def seqLetter : SeqId := 9
def seqExplosion : SeqId := 10
def seqDraw0 : SeqId := 11
def seqDraw1 : SeqId := 12

/-! ### Reading the two ROMs -/

/-- `BindRead(k)`: the Action bound to a key, total on the 16 KeyCodes (R53, R230). -/
def bindRead (c : Cfg) (k : KeyCode) : Action := c.bind[k.code.toFin]

/-- `FrameRead(s, f, p)`, defined for `s` a SeqId, `f < nframes` and `p <= 24` (R52). -/
def frameRead (c : Cfg) (s : SeqId) (f p : Nat) : Option Entry :=
  match c.seq[s.toNat]?, c.frame[s.toNat]? with
  | some d, some frames => if f < d.nframes ∧ p ≤ lastPix then frames[f]?.bind (fun fr => fr[p]?) else none
  | _, _ => none

/-- The descriptor `CFG.SEQ[s]`; a free one for SeqId 13 to 15, where the spec has none (log 26). -/
def seqDesc (c : Cfg) (s : SeqId) : SeqDesc := c.seq[s.toNat]?.getD (Config.undefinedSeq s.toNat)

/-- `nfr(a)`: the number of frames of an Action (R27); free for SeqId 13 to 15 (log 26). -/
def nfr (c : Cfg) : Action → Nat
  | .noOp => 0
  | .turnOff => 1
  | .fillSolid _ => 1
  | .playSequence s _ _ _ => (seqDesc c s).nframes

/-- `nrep(a)`: the number of cycles of an Action (R27); free for SeqId 13 to 15 (log 26). -/
def nrep (c : Cfg) : Action → Nat
  | .noOp => 0
  | .turnOff => 1
  | .fillSolid _ => 1
  | .playSequence s _ _ _ => (seqDesc c s).repeats

/-- `dly(a)`: the inter-frame delay of an Action in milliseconds (R27); free for SeqId 13 to 15 (log 26). -/
def dly (c : Cfg) : Action → Nat
  | .noOp => 0
  | .turnOff => 0
  | .fillSolid _ => 0
  | .playSequence s _ _ _ => (seqDesc c s).delayMs

/-- `words(a)`: the number of color words an Action emits (R27). -/
def words (c : Cfg) (a : Action) : Nat := numPix * nfr c a * nrep c a

/-! ### Well-formedness and conformance -/

/-- An entry has the kind its sequence states (R145). -/
def entryFits : EntryKind → Entry → Bool
  | .scalar, .scalar _ => true
  | .triple, .triple _ _ _ => true
  | _, _ => false

/-- A frame has exactly 25 entries, each of the stated kind (R146(a), R147). -/
def frameWf (k : EntryKind) (fr : Frame) : Bool := fr.length == numPix && fr.all (entryFits k)

/-- A sequence meets R146(a) and (b): its frames exist and fit, its counters fit their registers. -/
def seqWf (d : SeqDesc) (frames : List Frame) : Bool :=
  decide (d.nframes ≤ 255) && decide (d.repeats ≤ 255) && decide (d.delayMs ≤ 65535) &&
    decide (d.nframes ≤ frames.length) && (frames.take d.nframes).all (frameWf d.kind)

/-- Mode and kind agree (R146(d)). -/
def modeFits : BlendMode → EntryKind → Bool
  | .solidFill, _ => true
  | .uniformColor, .scalar => true
  | .weightedBicolor, .scalar => true
  | .direct, .triple => true
  | _, _ => false

/-- An Action meets R146(c), (d) and (e). -/
def actionWf (c : Cfg) : Action → Bool
  | .noOp => true
  | .turnOff => true
  | .fillSolid _ => true
  | .playSequence s _ mode chan =>
    match c.seq[s.toNat]? with
    | some d => modeFits mode d.kind && chanFits mode chan
    | none => false

/-- A configuration is well-formed (R146). -/
def cfgWf (c : Cfg) : Bool :=
  (c.seq.toList.zip c.frame.toList).all (fun p => seqWf p.1 p.2) && c.bind.toList.all (actionWf c)

/-- The frame counts, repeat counts, kinds and delays that R131 fixes, by SeqId; `none` where R131 leaves the value OPEN
or (the delays of the solid fills) unused. -/
def fixedShapes : List (Option Nat × Option Nat × Option Nat × EntryKind) :=
  [(some 1, some 1, none, .scalar), (some 1, some 1, none, .scalar), (some 1, some 1, none, .scalar),
   (some 1, some 1, none, .scalar), (some 4, some 3, none, .scalar), (some 6, some 1, some 400, .scalar),
   (some 5, some 3, none, .scalar), (some 2, some 2, none, .scalar), (some 6, some 5, none, .triple),
   (some 5, some 1, none, .scalar), (some 7, some 3, none, .scalar), (none, none, none, .scalar),
   (none, none, none, .scalar)]

/-- A value agrees with a value that may be left open. -/
def agrees (fixed : Option Nat) (n : Nat) : Bool := fixed.all (fun m => m == n)

/-- A descriptor has the shape R131 fixes. -/
def shapeFits (fixed : Option Nat × Option Nat × Option Nat × EntryKind) (d : SeqDesc) : Bool :=
  agrees fixed.1 d.nframes && agrees fixed.2.1 d.repeats && agrees fixed.2.2.1 d.delayMs && decide (d.kind = fixed.2.2.2)

/-- The delays the source observed, to which every OPEN delay is constrained (R131, R149). -/
def observedDelay (n : Nat) : Bool := n == 100 || n == 200 || n == 400 || n == 1000

/-- A frame of one intensity at all 25 positions (R132 to R135). -/
def uniformFrame (e : Intensity) : Frame := List.replicate numPix (.scalar e)

/-- The four bindings fixed by the source (R216, R220, R222, R225). -/
def fixedBindings (c : Cfg) : Bool :=
  (match bindRead c .k6 with
   | .playSequence s _ .uniformColor _ => decide (s = seqCount)
   | _ => false) &&
  decide (bindRead c .kA = .turnOff) &&
  decide (bindRead c .kC = .fillSolid ⟨1, 0, 0⟩) &&
  decide (bindRead c .hash = .fillSolid ⟨1 / 5, 1 / 5, 1 / 5⟩)

/-- EXPLOSION, wherever bound, is played in mode SolidFill (R142, R149). -/
def explosionSolid : Action → Bool
  | .playSequence s _ mode _ => decide (s = seqExplosion → mode = .solidFill)
  | _ => true

/-- A well-formed configuration conforms to the source (R149). -/
def conforms (c : Cfg) : Bool :=
  cfgWf c &&
  (fixedShapes.zip c.seq.toList).all (fun p => shapeFits p.1 p.2) &&
  (c.seq.toList.drop 4).all (fun d => observedDelay d.delayMs) &&
  (c.frame.toList.take 4).map (fun fs => fs.take 1) ==
    [[uniformFrame (4 / 5)], [uniformFrame (1 / 5)], [uniformFrame 1], [uniformFrame 0]] &&
  fixedBindings c &&
  c.bind.toList.all explosionSolid

/-! ### The reference linear layout of the frame ROM -/

/-- `base[s]`: the sum of `25 * nframes` over lower SeqIds (R51). -/
def romBase (c : Cfg) (s : Nat) : Nat := ((c.seq.toList.take s).map (fun d => numPix * d.nframes)).sum

/-- The linear address `base[s] + 25*f + p` of an entry (R51). -/
def romAddr (c : Cfg) (s : SeqId) (f p : Nat) : Nat := romBase c s.toNat + numPix * f + p

/-- The frame ROM laid out by linear address (R51). -/
def romImage (c : Cfg) : List Entry :=
  (c.seq.toList.zip c.frame.toList).flatMap (fun p => (p.2.take p.1.nframes).flatten)

/-- The directory of the FrameLibrary ROM: the SEQ word of each sequence, with its base address in the reference layout,
by SeqId (R87, R51). -/
def romDirectory (c : Cfg) : List (BitVec 50) :=
  c.seq.toList.zipIdx.map (fun p => (SeqEntry.mk p.1 (romBase c p.2)).encode)

/-! ### The reference configuration -/

/-- The black colour `(0, 0, 0)`. -/
def black : Color := ⟨0, 0, 0⟩

/-- A Scalar frame whose contents the spec does not give (D18; log 3). -/
def openFrame (s f : Nat) : Frame := (List.range numPix).map (fun p => .scalar (Config.pixel s f p))

/-- The frame of COUNT that shows a digit, a glyph whose shape the spec does not give (R137; log 3). -/
def digitFrame (digit : Nat) : Frame := (List.range numPix).map (fun p => .scalar (Config.digitGlyph digit p))

/-- A GHOST frame: triples the spec does not give (R140; log 3). -/
def ghostFrame (f : Nat) : Frame :=
  (List.range numPix).map (fun p =>
    .triple (Config.ghostPixel f p).r (Config.ghostPixel f p).g (Config.ghostPixel f p).b)

/-- REF_BIND (D16): the four bindings of the source and the reference value of the twelve OPEN ones (log 2). -/
def refBind : Vector Action 16 :=
  #v[.playSequence seqDraw0 black .weightedBicolor .r,
     .playSequence seqDraw1 black .weightedBicolor .r,
     .playSequence seqHeart black .uniformColor .r,
     .playSequence seqSquare black .uniformColor .b,
     .playSequence seqArrow black .uniformColor .r,
     .playSequence seqGhost black .direct .r,
     .playSequence seqCount black .uniformColor .r,
     .playSequence seqLetter black .uniformColor .r,
     .playSequence seqExplosion ⟨1, 0, 0⟩ .solidFill .r,
     .noOp,
     .turnOff,
     .fillSolid ⟨0, 0, 1⟩,
     .fillSolid ⟨1, 0, 0⟩,
     .noOp,
     .noOp,
     .fillSolid ⟨1 / 5, 1 / 5, 1 / 5⟩]

/-- The descriptors of REFCFG: R131 with the reference value of every OPEN entry (D17; log 2). -/
def refSeq : Vector SeqDesc 13 :=
  #v[⟨1, 1, 0, .scalar⟩, ⟨1, 1, 0, .scalar⟩, ⟨1, 1, 0, .scalar⟩, ⟨1, 1, 0, .scalar⟩,
     ⟨4, 3, 200, .scalar⟩, ⟨6, 1, 400, .scalar⟩, ⟨5, 3, 200, .scalar⟩, ⟨2, 2, 200, .scalar⟩,
     ⟨6, 5, 200, .triple⟩, ⟨5, 1, 200, .scalar⟩, ⟨7, 3, 200, .scalar⟩,
     ⟨1, 1, 200, .scalar⟩, ⟨1, 1, 200, .scalar⟩]

/-- The frames: the four solid fills (R132 to R135), COUNT counting 5 down to 0 (R137), and free contents elsewhere. -/
def refFrame : Vector (List Frame) 13 :=
  #v[[uniformFrame (4 / 5)], [uniformFrame (1 / 5)], [uniformFrame 1], [uniformFrame 0],
     (List.range 4).map (openFrame 4),
     (List.range 6).map (fun f => digitFrame (5 - f)),
     (List.range 5).map (openFrame 6),
     (List.range 2).map (openFrame 7),
     (List.range 6).map ghostFrame,
     (List.range 5).map (openFrame 9),
     (List.range 7).map (openFrame 10),
     (List.range 1).map (openFrame 11),
     (List.range 1).map (openFrame 12)]

/-- The reference configuration REFCFG (92_eei_decisions.md), with FRAMES free. -/
def refCfg : Cfg := ⟨refBind, refSeq, refFrame⟩

end Sys2Proof.Machine
end

