-- ==== Sys2Proof/Machine/State.lean ====
section
/-! DEFINITION. The state of the block, plain data; the reasons a step can stop; the state after reset. -/

namespace Sys2Proof.Machine

/-- The sequencer's control state (R22). -/
inductive Phase where
  /-- No key is being handled; the key port is sampled. -/
  | poll
  /-- A frame is being sent; the word for output index `pix` is offered to the LED sink. -/
  | emit
  /-- The inter-frame delay is running. -/
  | gap
  /-- The 200 ms hold after the Action is running. -/
  | hold
deriving DecidableEq, Repr, Inhabited

/-- What an observer of a run sees (R12). -/
inductive Event where
  /-- A word was accepted by the LED sink. -/
  | emit (w : Word)
  /-- A wait of `ms` milliseconds began. -/
  | sleep (ms : Nat)
deriving DecidableEq, Repr, Inhabited

/-- Why the machine stops with a fault. The block has none (R270, R287): this one is the model's, for states that no
run reaches. -/
inductive Fault where
  /-- Raised by an EMIT edge with `pix > 24`, for which the spec writes no rule (R174, R175 cover 0 to 24; R37 says the
  state is not reachable). Safe: the model stops where the spec says nothing (log 11). -/
  | noStepRule
deriving DecidableEq, Repr

/-- Why the machine gives no meaning. -/
inductive Refusal where
  /-- Raised by `exec` for an instruction that has no meaning yet. Safe. No arm of this model raises it. -/
  | notModelled (mnemonic : String)
  /-- Raised by `step`, and by an ACT descriptor dispatched in POLL, where the configuration or the descriptor is not
  well-formed (R146, R272). Safe: the spec refuses it too (log 12). -/
  | illFormedConfig
  /-- Raised by the reserved channel tag (R86, R91(e)). Safe: the spec refuses it too (log 23). -/
  | reservedChannel
deriving DecidableEq, Repr

/-- The state of the block (R21), the constant configuration (R9, log 1), the ghost trace (R34), the LED string (R33,
log 13), and the input samples given for the coming edges (R35, log 4). `edge` is the model's own index of the free
values (log 4). -/
structure State where
  phase  : Phase
  act    : Action
  rep    : BitVec 8
  frm    : BitVec 8
  pix    : BitVec 5
  tmr    : BitVec 16
  trace  : List Event
  disp   : List Word
  cfg    : Cfg
  inputs : List Input
  edge   : Nat
deriving DecidableEq, Repr

/-- The state right after reset (R36, R301): POLL, NoOp, counters 0, empty trace. The configuration is REFCFG (log 2), the
LED string is unspecified (log 13), and no input sample is given (log 4). -/
def State.reset : State :=
  { phase := .poll
    act := .noOp
    rep := 0
    frm := 0
    pix := 0
    tmr := 0
    trace := []
    disp := (List.range numPix).map Config.ledAtReset
    cfg := refCfg
    inputs := []
    edge := 0 }

end Sys2Proof.Machine
end

