-- ==== Sys2Proof/Machine/Operands.lean ====
section
/-! DEFINITION. Operand assembly (R89): the color encoder, the blend modes, and the word of an Action at an output
index. -/

namespace Sys2Proof.Machine

/-! ### ColorEncoder -/

/-- `clamp01` (R11, R112). -/
def clamp01 (c : Intensity) : Intensity := if c < 0 then 0 else if 1 < c then 1 else c

/-- `q8(c) = floor(clamp01(c) * 255)`, exact, then truncated (R111). -/
def q8 (c : Intensity) : Code := BitVec.ofNat 8 ⌊clamp01 c * 255⌋.toNat

/-- `encode(r, g, b)` (R110). -/
def encodeColor (c : Color) : Word := packWord (q8 c.g) (q8 c.r) (q8 c.b)

/-- An intensity whose channel code is the given one; the code is all that any word shows of it (R88, R119; log 9). -/
def intensityOfCode (c : Code) : Intensity := (c.toNat : Intensity) / 255

/-- The colour of a descriptor's three channel codes (R84; log 9). -/
def colorOfCodes (cr cg cb : Code) : Color := ⟨intensityOfCode cr, intensityOfCode cg, intensityOfCode cb⟩

/-! ### Blend modes -/

/-- SolidFill: the colour alone; neither the entry nor the index is read (R165). -/
def blendSolid (c : Color) : Color := c

/-- UniformColor: the entry becomes one channel, the colour gives the others (R164). The reserved channel has no line. -/
def blendUniform (chan : Chan) (c : Color) (e : Intensity) : Option Color :=
  match chan with
  | .r => some ⟨e, c.g, c.b⟩
  | .g => some ⟨c.r, e, c.b⟩
  | .b => some ⟨c.r, c.g, e⟩
  | .reserved => none

/-- WeightedBicolor: into blue at an even output index, into red at an odd one, the rest 0 (R163). -/
def blendWeighted (e : Intensity) (i : Nat) : Color :=
  if i % 2 = 0 then ⟨0, 0, e⟩ else ⟨e, 0, 0⟩

/-- Direct: the triple unchanged (R166). -/
def blendDirect (er eg eb : Intensity) : Color := ⟨er, eg, eb⟩

/-- The four modes as one function of the mode, the channel, the colour, the entry read and the output index (R167).
`none` where the entry is not defined or its kind does not fit the mode. -/
def pixColor (mode : BlendMode) (chan : Chan) (c : Color) (e : Option Entry) (i : Nat) : Option Color :=
  match mode, e with
  | .solidFill, _ => some (blendSolid c)
  | .uniformColor, some (.scalar x) => blendUniform chan c x
  | .weightedBicolor, some (.scalar x) => some (blendWeighted x i)
  | .direct, some (.triple er eg eb) => some (blendDirect er eg eb)
  | _, _ => none

/-! ### The word of an Action -/

/-- The colour an Action carries (R30); TurnOff is a fill with black (R204). -/
def actionColor : Action → Option Color
  | .noOp => none
  | .turnOff => some black
  | .fillSolid c => some c
  | .playSequence _ c _ _ => some c

/-- The frame entry that output index `i` of frame `f` reads: position `24 - i` (R162, R168). Fills read no frame (R204, R205). -/
def actionEntry (c : Cfg) (a : Action) (f i : Nat) : Option Entry :=
  match a with
  | .playSequence s _ _ _ => if i ≤ lastPix then frameRead c s f (lastPix - i) else none
  | _ => none

/-- The mode an Action is played in; the fills and TurnOff are plays in SolidFill (R165, R204, R205). -/
def actionMode : Action → BlendMode
  | .playSequence _ _ mode _ => mode
  | _ => .solidFill

/-- The channel select an Action carries; read only in UniformColor (R30). -/
def actionChan : Action → Chan
  | .playSequence _ _ _ chan => chan
  | _ => .r

/-- The colour that mode `mode` with channel `chan` makes of an Action's operands at output index `i` of frame `f`
(R167, R168); `none` where the spec defines none. -/
def blendColor (mode : BlendMode) (chan : Chan) (c : Cfg) (a : Action) (f i : Nat) : Option Color :=
  (actionColor a).bind (fun col => pixColor mode chan col (actionEntry c a f i) i)

/-- The word that mode `mode` with channel `chan` offers: `encode` of the blend, a free colour where none is defined
(log 10). -/
def blendWord (mode : BlendMode) (chan : Chan) (c : Cfg) (a : Action) (f i : Nat) : Word :=
  encodeColor ((blendColor mode chan c a f i).getD (Config.undefinedColor f i))

/-- `word(a, f, i)` (R168). -/
def word (c : Cfg) (a : Action) (f i : Nat) : Word := blendWord (actionMode a) (actionChan a) c a f i

/-! ### Blending channel codes -/

/-- A frame entry with its intensities replaced by their channel codes, as a ROM may store them (R88). -/
inductive CodeEntry where
  | scalar (e : Code)
  | triple (er eg eb : Code)
deriving DecidableEq, Repr

/-- The stored form of an entry (R88). -/
def entryCodes : Entry → CodeEntry
  | .scalar e => .scalar (q8 e)
  | .triple er eg eb => .triple (q8 er) (q8 eg) (q8 eb)

/-- The blend on stored codes `(cr, cg, cb)`, then packing alone: the encoder of an implementation whose ROMs hold codes (R119). -/
def codeWord (mode : BlendMode) (chan : Chan) (cr cg cb : Code) (e : Option CodeEntry) (i : Nat) : Option Word :=
  match mode, chan, e with
  | .solidFill, _, _ => some (packWord cg cr cb)
  | .uniformColor, .r, some (.scalar x) => some (packWord cg x cb)
  | .uniformColor, .g, some (.scalar x) => some (packWord x cr cb)
  | .uniformColor, .b, some (.scalar x) => some (packWord cg cr x)
  | .weightedBicolor, _, some (.scalar x) => some (if i % 2 = 0 then packWord 0 0 x else packWord 0 x 0)
  | .direct, _, some (.triple er eg eb) => some (packWord eg er eb)
  | _, _, _ => none

end Sys2Proof.Machine
end

