-- ==== Sys2Proof/Machine/Ops.lean ====
section
/-! DEFINITION. The named operations over the state: the input wires, entering the hold, dispatch, the EMIT edge and the
acceptance of a word, the GAP and HOLD edges, reset. -/

namespace Sys2Proof.Machine

/-! ### The input wires -/

/-- The wires at the `i`-th edge from now: the given sample, or a draw where none is given (R35, R287; log 4). -/
def State.inputAt (s : State) (i : Nat) : Input := s.inputs[i]?.getD (Config.freeInput (s.edge + i))

/-- The wires at this edge. -/
def State.now (s : State) : Input := s.inputAt 0

/-- The edge is over: its sample is gone. -/
def State.consume (s : State) : State := { s with inputs := s.inputs.tail, edge := s.edge + 1 }

/-- `PollKey()`: the key shown, if any (R251). -/
def pollKey (i : Input) : Option KeyCode := if i.keyValid then some (KeyCode.ofCode i.keyCode) else none

/-- The 5-bit command on the key port, `key_valid` above `key_code` (R80, R81). -/
def portCommand (i : Input) : BitVec 5 := BitVec.ofBool i.keyValid ++ i.keyCode

/-! ### Dispatch and the hold -/

/-- `enter_hold(st)` (R207). -/
def enterHold (s : State) : State :=
  { s with
    phase := .hold
    tmr := BitVec.ofNat 16 debounceMs
    rep := 0
    frm := 0
    pix := 0
    trace := s.trace ++ [.sleep debounceMs] }

/-- The dispatch of an Action in POLL: latch it, then play it, or hold at once when it emits nothing (R202). -/
def dispatch (a : Action) (s : State) : State :=
  let latched := { s with act := a }
  if words s.cfg a = 0 then enterHold latched
  else { latched with phase := .emit, rep := 0, frm := 0, pix := 0 }

/-- A key command: in POLL it dispatches the Action bound to the key (R202); in every other phase it is not seen (R227, R252). -/
def pressKey (k : KeyCode) (s : State) : Host.Outcome State Fault Refusal :=
  .next (if s.phase = .poll then dispatch (bindRead s.cfg k) s else s)

/-- An Action descriptor: in POLL it is dispatched, or refused when it is not well-formed (R146, R202); elsewhere it has no
effect, since an Action cannot start another Action (R277). -/
def runAction (a : Action) (s : State) : Host.Outcome State Fault Refusal :=
  if s.phase = .poll then
    if actionWf s.cfg a then .next (dispatch a s) else .refused .illFormedConfig
  else .next s

/-! ### The EMIT edge -/

/-- `last(st)`: the last frame of the last cycle (R27). -/
def isLast (s : State) : Bool :=
  s.rep.toNat + 1 == nrep s.cfg s.act && s.frm.toNat + 1 == nfr s.cfg s.act

/-- The word of an event. -/
def Event.word? : Event → Option Word
  | .emit w => some w
  | .sleep _ => none

/-- The 25 words last accepted: what the LED string shows once a frame is complete (R33; log 13). -/
def lastFrame (trace : List Event) : List Word := ((trace.reverse.take numPix).reverse).filterMap Event.word?

/-- The position after the last word of a frame that is not the Action's last: the next frame, or the first frame of the
next cycle (R175). -/
def nextFrame (s : State) : State :=
  if s.frm.toNat + 1 < nfr s.cfg s.act then { s with pix := 0, frm := s.frm + 1 }
  else { s with pix := 0, frm := 0, rep := s.rep + 1 }

/-- Entering GAP: the inter-frame delay begins (R169, R175). -/
def enterGap (s : State) : State :=
  { s with
    phase := .gap
    tmr := BitVec.ofNat 16 (dly s.cfg s.act)
    trace := s.trace ++ [.sleep (dly s.cfg s.act)] }

/-- The sink takes the word: the event, then the position's advance (R174, R175, R254). -/
def accept (w : Word) (s : State) : State :=
  let sent := { s with trace := s.trace ++ [Event.emit w] }
  if s.pix.toNat < lastPix then { sent with pix := s.pix + 1 }
  else
    let shown := { sent with disp := lastFrame sent.trace }
    if isLast s then enterHold shown else enterGap (nextFrame shown)

/-- An EMIT edge that offers the word `w`: taken if the sink is ready, else nothing changes (R174, R175). Outside EMIT no
word is offered and `pix_ready` has no effect (R275(b)). -/
def emitEdge (w : Word) (s : State) : Host.Outcome State Fault Refusal :=
  if s.phase ≠ .emit then .next s
  else if lastPix < s.pix.toNat then .fault .noStepRule
  else if s.now.ready then .next (accept w s)
  else .next s

/-- An EMIT edge in a mode, with a channel: the word blended from the latched Action at the position (R163 to R168). -/
def blendEdge (mode : BlendMode) (chan : Chan) (s : State) : Host.Outcome State Fault Refusal :=
  emitEdge (blendWord mode chan s.cfg s.act s.frm.toNat s.pix.toNat) s

/-! ### The waiting phases and reset -/

/-- Leave the waiting phase for `next` when `tmr` is 0, else count a tick down (R176, R207, R256). -/
def waitEdge (next : Phase) (s : State) : State :=
  if s.tmr = 0 then { s with phase := next }
  else if s.now.tick then { s with tmr := s.tmr - 1 }
  else s

/-- Step GAP (R176). -/
def gapEdge (s : State) : State := waitEdge .emit s

/-- Step HOLD (R207). -/
def holdEdge (s : State) : State := waitEdge .poll s

/-- The sink holds a partial frame: `n` words of it with `0 < n < 25` (R305). -/
def inMidFrame (s : State) : Bool := decide (s.phase = .emit ∧ s.pix ≠ 0)

/-- What the LED string shows after a reset: what it showed before (R302), but anything at all once a frame was cut
short (R305, U18; log 13). -/
def dispAfterReset (s : State) : List Word :=
  if inMidFrame s then (List.range numPix).map (Config.ledAfterCutFrame s.edge) else s.disp

/-- An edge with `rst = 1`: the block's registers take their reset values, nothing is appended to the trace, CFG does not
change, and the LED string is not cleared (R300, R301, R302). -/
def resetEdge (s : State) : State :=
  { s with phase := .poll, act := .noOp, rep := 0, frm := 0, pix := 0, tmr := 0, disp := dispAfterReset s }

/-! ### What the next edge runs -/

/-- The instruction an edge runs: in POLL the command on the key port (R81, R201, R202), in EMIT the mode of the latched
Action (R174, R175, R204 to R206); GAP and HOLD run none (R176, R207). -/
def fetch (s : State) : Option Instr :=
  match s.phase with
  | .poll => some (decodeKey (portCommand s.now))
  | .emit => some (modeRow (actionMode s.act))
  | .gap => none
  | .hold => none

/-- An edge of a phase that runs no instruction. -/
def idleEdge (s : State) : State :=
  match s.phase with
  | .gap => gapEdge s
  | .hold => holdEdge s
  | _ => s

/-- What an outcome's next state becomes once the edge's sample is consumed. -/
def endEdge : Host.Outcome State Fault Refusal → Host.Outcome State Fault Refusal
  | .next s => .next s.consume
  | .fault r => .fault r
  | .refused r => .refused r

/-! ### Placing an instruction where the next edge runs it -/

/-- The sample list with the next edge's sample replaced: `rst` low, the other wires as `f` makes them of what was given
(all low where nothing was given). -/
def setNow (f : Input → Input) (inputs : List Input) : List Input :=
  f { inputs.head?.getD ⟨false, 0, false, false, false⟩ with rst := false } :: inputs.tail

/-- The key port shows a command at the next edge, and the block is idle. -/
def State.withCommand (s : State) (w : BitVec 5) : State :=
  { s with
    phase := .poll, rep := 0, frm := 0, pix := 0, tmr := 0
    inputs := setNow (fun i => { i with keyValid := w.getLsbD 4, keyCode := w.extractLsb' 0 4 }) s.inputs }

/-- The block offers the word of three channel codes at the next edge, and the sink is ready: the first word of a solid
fill of that colour. -/
def State.withWord (s : State) (g r b : Code) : State :=
  { s with
    phase := .emit, act := .fillSolid (colorOfCodes r g b), rep := 0, frm := 0, pix := 0, tmr := 0
    inputs := setNow (fun i => { i with ready := true }) s.inputs }

/-- The Action stands in the binding ROM under key `'0'`, and that key is shown at the next edge. -/
def State.withAction (s : State) (a : Action) : State :=
  ({ s with cfg := { s.cfg with bind := s.cfg.bind.set 0 a } }).withCommand (encodeKey .k0)

end Sys2Proof.Machine
end

