-- ==== Sys2Proof/Machine/Actions.lean ====
section
/-! DEFINITION. The four Action descriptors: the dispatch of the Action they describe (R202 to R206). -/

namespace Sys2Proof.Machine

/-- Action NoOp: nothing is emitted, the hold follows (R203). -/
def execActNoop (s : State) : Host.Outcome State Fault Refusal := runAction .noOp s

/-- Action TurnOff: one frame of zero words (R204). -/
def execActTurnoff (s : State) : Host.Outcome State Fault Refusal := runAction .turnOff s

/-- Action FillSolid: one frame of the colour's word (R205). -/
def execActFillsolid (cr cg cb : Code) (s : State) : Host.Outcome State Fault Refusal :=
  runAction (.fillSolid (colorOfCodes cr cg cb)) s

/-- Action PlaySequence: the animation `seq` in a mode (R206). -/
def execActPlaysequence (seq : SeqId) (mode : BlendMode) (chan : Chan) (cr cg cb : Code) (s : State) :
    Host.Outcome State Fault Refusal :=
  runAction (.playSequence seq (colorOfCodes cr cg cb) mode chan) s

end Sys2Proof.Machine
end

