-- ==== Sys2Proof/Machine/Channels.lean ====
section
/-! DEFINITION. The four channel tags: one EMIT edge in UniformColor with that channel, each the matching line of R164. -/

namespace Sys2Proof.Machine

/-- Channel R: `(e, cg, cb)` (R164). -/
def execChanR (s : State) : Host.Outcome State Fault Refusal := blendEdge .uniformColor .r s

/-- Channel G: `(cr, e, cb)` (R164). -/
def execChanG (s : State) : Host.Outcome State Fault Refusal := blendEdge .uniformColor .g s

/-- Channel B: `(cr, cg, e)` (R164). -/
def execChanB (s : State) : Host.Outcome State Fault Refusal := blendEdge .uniformColor .b s

/-- The reserved tag: refused (R86, R91(e); log 23). -/
def execChanReserved (_s : State) : Host.Outcome State Fault Refusal := .refused .reservedChannel

end Sys2Proof.Machine
end

