-- ==== Sys2Proof/Machine/ColorWord.lean ====
section
/-! DEFINITION. The color word of the pixel port: the transfer of one word to the LED sink (R83, R113, R254). -/

namespace Sys2Proof.Machine

/-- COLORWORD: at an EMIT edge with the sink ready, the word is transferred, the event is appended and the position
advances; while the sink stalls nothing changes (R254, R174, R175). -/
def execColorword (g r b : Code) (s : State) : Host.Outcome State Fault Refusal := emitEdge (packWord g r b) s

end Sys2Proof.Machine
end

