-- ==== Sys2Proof/Machine/Keys.lean ====
section
/-! DEFINITION. The 17 key commands (R201, R210 to R226). A key's own meaning is the Action `CFG.BIND` gives it. -/

namespace Sys2Proof.Machine

/-- NOKEY: no effect; the code wires are ignored (R201, R226). -/
def execNokey (_ignored : BitVec 4) (s : State) : Host.Outcome State Fault Refusal := .next s

/-- Key `'0'` (R210). -/
def execKey0 (s : State) : Host.Outcome State Fault Refusal := pressKey .k0 s

/-- Key `'1'` (R211). -/
def execKey1 (s : State) : Host.Outcome State Fault Refusal := pressKey .k1 s

/-- Key `'2'` (R212). -/
def execKey2 (s : State) : Host.Outcome State Fault Refusal := pressKey .k2 s

/-- Key `'3'` (R213). -/
def execKey3 (s : State) : Host.Outcome State Fault Refusal := pressKey .k3 s

/-- Key `'4'` (R214). -/
def execKey4 (s : State) : Host.Outcome State Fault Refusal := pressKey .k4 s

/-- Key `'5'` (R215). -/
def execKey5 (s : State) : Host.Outcome State Fault Refusal := pressKey .k5 s

/-- Key `'6'`, the counting animation (R216). -/
def execKey6 (s : State) : Host.Outcome State Fault Refusal := pressKey .k6 s

/-- Key `'7'` (R217). -/
def execKey7 (s : State) : Host.Outcome State Fault Refusal := pressKey .k7 s

/-- Key `'8'` (R218). -/
def execKey8 (s : State) : Host.Outcome State Fault Refusal := pressKey .k8 s

/-- Key `'9'` (R219). -/
def execKey9 (s : State) : Host.Outcome State Fault Refusal := pressKey .k9 s

/-- Key `'A'`, TurnOff (R220). -/
def execKeyA (s : State) : Host.Outcome State Fault Refusal := pressKey .kA s

/-- Key `'B'` (R221). -/
def execKeyB (s : State) : Host.Outcome State Fault Refusal := pressKey .kB s

/-- Key `'C'`, the red fill (R222). -/
def execKeyC (s : State) : Host.Outcome State Fault Refusal := pressKey .kC s

/-- Key `'D'` (R223). -/
def execKeyD (s : State) : Host.Outcome State Fault Refusal := pressKey .kD s

/-- Key `'*'` (R224). -/
def execKeyStar (s : State) : Host.Outcome State Fault Refusal := pressKey .star s

/-- Key `'#'`, the white fill at 20% (R225). -/
def execKeyHash (s : State) : Host.Outcome State Fault Refusal := pressKey .hash s

end Sys2Proof.Machine
end

