-- ==== Sys2Proof/Machine/Modes.lean ====
section
/-! DEFINITION. The four blend modes: one EMIT edge whose word is blended in that mode from the latched Action's colour,
the frame entry at the position and the output index (R163 to R168, R174, R175). -/

namespace Sys2Proof.Machine

/-- Mode SolidFill: the frame entry is not read (R165). -/
def execModeSolidfill (s : State) : Host.Outcome State Fault Refusal := blendEdge .solidFill (actionChan s.act) s

/-- Mode UniformColor: the latched Action's channel is read (R164), whatever that Action's own mode (log 24); an EMIT edge
with the reserved one is refused (R91(e), log 23). -/
def execModeUniformcolor (s : State) : Host.Outcome State Fault Refusal :=
  if s.phase = .emit ∧ actionChan s.act = .reserved then .refused .reservedChannel
  else blendEdge .uniformColor (actionChan s.act) s

/-- Mode WeightedBicolor (R163). -/
def execModeWeightedbicolor (s : State) : Host.Outcome State Fault Refusal :=
  blendEdge .weightedBicolor (actionChan s.act) s

/-- Mode Direct (R166). -/
def execModeDirect (s : State) : Host.Outcome State Fault Refusal := blendEdge .direct (actionChan s.act) s

end Sys2Proof.Machine
end

