-- ==== Sys2Proof/Machine/Dispatch.lean ====
section
/-! DEFINITION. One arm per constructor of Instr, each one direct call of its meaning. -/

namespace Sys2Proof.Machine

def exec (i : Instr) (s : State) : Host.Outcome State Fault Refusal :=
  match i with
  | .nokey ignored => Sys2Proof.Machine.execNokey ignored s
  | .key0 => Sys2Proof.Machine.execKey0 s
  | .key1 => Sys2Proof.Machine.execKey1 s
  | .key2 => Sys2Proof.Machine.execKey2 s
  | .key3 => Sys2Proof.Machine.execKey3 s
  | .key4 => Sys2Proof.Machine.execKey4 s
  | .key5 => Sys2Proof.Machine.execKey5 s
  | .key6 => Sys2Proof.Machine.execKey6 s
  | .key7 => Sys2Proof.Machine.execKey7 s
  | .key8 => Sys2Proof.Machine.execKey8 s
  | .key9 => Sys2Proof.Machine.execKey9 s
  | .keyA => Sys2Proof.Machine.execKeyA s
  | .keyB => Sys2Proof.Machine.execKeyB s
  | .keyC => Sys2Proof.Machine.execKeyC s
  | .keyD => Sys2Proof.Machine.execKeyD s
  | .keyStar => Sys2Proof.Machine.execKeyStar s
  | .keyHash => Sys2Proof.Machine.execKeyHash s
  | .actNoop => Sys2Proof.Machine.execActNoop s
  | .actTurnoff => Sys2Proof.Machine.execActTurnoff s
  | .actFillsolid cr cg cb => Sys2Proof.Machine.execActFillsolid cr cg cb s
  | .actPlaysequence seq mode chan cr cg cb => Sys2Proof.Machine.execActPlaysequence seq mode chan cr cg cb s
  | .modeSolidfill => Sys2Proof.Machine.execModeSolidfill s
  | .modeUniformcolor => Sys2Proof.Machine.execModeUniformcolor s
  | .modeWeightedbicolor => Sys2Proof.Machine.execModeWeightedbicolor s
  | .modeDirect => Sys2Proof.Machine.execModeDirect s
  | .chanR => Sys2Proof.Machine.execChanR s
  | .chanG => Sys2Proof.Machine.execChanG s
  | .chanB => Sys2Proof.Machine.execChanB s
  | .chanReserved => Sys2Proof.Machine.execChanReserved s
  | .colorword g r b => Sys2Proof.Machine.execColorword g r b s

end Sys2Proof.Machine
end

