-- ==== Sys2Proof/Machine/Step.lean ====
section
/-! DEFINITION. One step, a rising edge of `clk`; and the placing of a table word where the next step runs it. -/

namespace Sys2Proof.Machine

/-- One rising edge (R250, R275): an ill-formed configuration is refused (R272), `rst` overrides everything (R300), and
otherwise the phase alone chooses what happens. -/
def step (s : State) : Host.Outcome State Fault Refusal :=
  if cfgWf s.cfg = false then .refused .illFormedConfig
  else if s.now.rst then .next (resetEdge s).consume
  else
    match fetch s with
    | some i => endEdge (exec i s)
    | none => .next (idleEdge s).consume

/-- `s` with a table word placed so that the very next step runs it (log 16): a key command on the key port of an idle
block; a color word offered at the pixel port to a ready sink; an Action descriptor in the binding ROM under a key that is
shown. A number that is no word of the table changes nothing. -/
def State.withFetchWord (s : State) (nbits w : Nat) : State :=
  match decodeTableWord nbits w with
  | some (.colorword g r b) => s.withWord g r b
  | some .actNoop => s.withAction .noOp
  | some .actTurnoff => s.withAction .turnOff
  | some (.actFillsolid cr cg cb) => s.withAction (.fillSolid (colorOfCodes cr cg cb))
  | some (.actPlaysequence seq mode chan cr cg cb) =>
    s.withAction (.playSequence seq (colorOfCodes cr cg cb) mode chan)
  | some _ => s.withCommand (BitVec.ofNat 5 w)
  | none => s

end Sys2Proof.Machine
end

