-- ==== Sys2Proof/Machine/Flags.lean ====
section
/-! DEFINITION. The one status flag and the output wires, functions of the state alone (R23, R38). There are no
condition codes. -/

namespace Sys2Proof.Machine

/-- The dispatcher state of the source (R23). -/
inductive DState where
  | idle
  | debounce
deriving DecidableEq, Repr

/-- Idle in POLL, Debounce in EMIT, GAP and HOLD (R23, R200). -/
def dstate (s : State) : DState :=
  match s.phase with
  | .poll => .idle
  | .emit => .debounce
  | .gap => .debounce
  | .hold => .debounce

/-- `busy = (phase != POLL)` (R38, R258). -/
def busy (s : State) : Bool := decide (s.phase ≠ .poll)

/-- `pix_valid = (phase = EMIT)` (R38). -/
def pixValid (s : State) : Bool := decide (s.phase = .emit)

/-- `pix_data`: the offered word in EMIT, unspecified otherwise (R38, U13; log 14). -/
def pixData (s : State) : Word :=
  if s.phase = .emit then word s.cfg s.act s.frm.toNat s.pix.toNat else Config.idlePixData s.edge

/-- The reference encoding of the phase register (R22). -/
def Phase.code : Phase → BitVec 2
  | .poll => 0
  | .emit => 1
  | .gap => 2
  | .hold => 3

end Sys2Proof.Machine
end

