-- ==== Sys2Proof/Machine/Events.lean ====
section
/-! DEFINITION. The event-level semantics (R160, R228): what an Action, a key and a list of poll answers add to the
trace. The step of Machine/Step.lean realises it edge by edge. -/

namespace Sys2Proof.Machine

/-- `frame_events(a, f)`: the 25 words of a frame, output index 0 first (R160, R162). -/
def frameEvents (c : Cfg) (a : Action) (f : Nat) : List Event :=
  (List.range numPix).map (fun i => .emit (word c a f i))

/-- `events(a)`: cycles outermost, then frames; the delay between every two frames, none after the last (R160, R161,
R169, R170). -/
def events (c : Cfg) (a : Action) : List Event :=
  (List.range (nrep c a)).flatMap (fun cycle =>
    (List.range (nfr c a)).flatMap (fun f =>
      frameEvents c a f ++
        (if cycle + 1 = nrep c a ∧ f + 1 = nfr c a then [] else [.sleep (dly c a)])))

/-- `exec(k)`: what one handled key adds to the trace (R228). -/
def keyEvents (c : Cfg) (k : KeyCode) : List Event := events c (bindRead c k) ++ [.sleep debounceMs]

/-- `step_events(x)`: what one poll answer adds (R228). -/
def answerEvents (c : Cfg) : Option KeyCode → List Event
  | none => []
  | some k => keyEvents c k

/-- `run(CFG, answers)` (R228). -/
def runEvents (c : Cfg) (answers : List (Option KeyCode)) : List Event := answers.flatMap (answerEvents c)

/-- The words of a list of events, in order. -/
def emits (t : List Event) : List Word := t.filterMap Event.word?

/-- The wait of an event. -/
def Event.ms? : Event → Option Nat
  | .emit _ => none
  | .sleep d => some d

/-- The waits of a list of events, in order. -/
def sleeps (t : List Event) : List Nat := t.filterMap Event.ms?

end Sys2Proof.Machine
end

