-- ==== Sys2Proof/Machine/Script.lean ====
section
/-! DEFINITION. Stimulus scripts (R93): the poll answers a script denotes and the 5-bit commands of its lines. -/

namespace Sys2Proof.Machine

/-- A line of a stimulus script (R93). -/
inductive ScriptLine where
  /-- `KEY <sym>` -/
  | key (k : KeyCode)
  /-- `NONE` -/
  | none
  /-- `NONE x<n>` -/
  | noneTimes (n : Nat)
  /-- `HELD <sym> x<n>` -/
  | held (k : KeyCode) (n : Nat)
deriving DecidableEq, Repr

/-- The poll answers of a line (R93). -/
def ScriptLine.answers : ScriptLine → List (Option KeyCode)
  | .key k => [some k]
  | .none => [Option.none]
  | .noneTimes n => List.replicate n Option.none
  | .held k n => List.replicate n (some k)

/-- The poll answers of a script, in order (R93). -/
def scriptAnswers (script : List ScriptLine) : List (Option KeyCode) := script.flatMap ScriptLine.answers

/-- The command of a poll answer: `1 ++ key_code`, or the canonical `0x00` for no key (R93). -/
def answerCommand : Option KeyCode → BitVec 5
  | some k => encodeKey k
  | Option.none => 0x00

/-- The commands of a script's lines (R93). -/
def scriptCommands (script : List ScriptLine) : List (BitVec 5) := (scriptAnswers script).map answerCommand

/-- The input sample that shows a command at the key port, the other wires as given. -/
def commandInput (w : BitVec 5) (ready tick : Bool) : Input :=
  { keyValid := w.getLsbD 4, keyCode := w.extractLsb' 0 4, ready := ready, tick := tick, rst := false }

end Sys2Proof.Machine
end

