-- ==== Sys2Proof/Safety.lean ====
section
/-! DEFINITION. What claims about runs are stated in: the invariant of the reachable states (R37), whole frames in the
trace (R59, R171), runs without reset, counts of ticks and of ready edges, the poll answers a run saw, and fair inputs (R259, R316). -/

namespace Sys2Proof.Machine

/-- The invariant of R37, with what it rests on: the configuration is well-formed and the latched Action is one it could
hold; in POLL the timer is 0 (R36). -/
abbrev State.Inv (s : State) : Prop :=
  cfgWf s.cfg = true ∧
  actionWf s.cfg s.act = true ∧
  s.pix.toNat ≤ lastPix ∧
  (s.phase = .emit ∨ s.phase = .gap →
    0 < words s.cfg s.act ∧ s.rep.toNat < nrep s.cfg s.act ∧ s.frm.toNat < nfr s.cfg s.act) ∧
  (s.phase = .gap → s.pix = 0 ∧ ¬(s.rep = 0 ∧ s.frm = 0)) ∧
  (s.phase = .poll ∨ s.phase = .hold → s.rep = 0 ∧ s.frm = 0 ∧ s.pix = 0) ∧
  (s.phase = .poll → s.tmr = 0)

/-- The number of words since the last wait of a list of events, `n` of them before it, or `none` if some wait does not
follow a whole number of frames (R171). -/
def wordsSinceSleep (n : Nat) : List Event → Option Nat
  | [] => some n
  | .emit _ :: t => wordsSinceSleep (n + 1) t
  | .sleep _ :: t => if n % numPix = 0 then wordsSinceSleep 0 t else none

/-- Every wait in the trace follows whole frames, and the frame in progress has `pix` words (R59, R171). -/
def State.WholeFrames (s : State) : Prop :=
  ∃ n, wordsSinceSleep 0 s.trace = some n ∧ n % numPix = if s.phase = .emit then s.pix.toNat else 0

/-- No reset at any of the next `n` edges. -/
def State.NoReset (s : State) (n : Nat) : Prop := ∀ i, i < n → (s.inputAt i).rst = false

/-- At how many of the next `n` edges a wire is high. -/
def State.highEdges (wire : Input → Bool) (s : State) (n : Nat) : Nat :=
  (List.range n).countP (fun i => wire (s.inputAt i))

/-- The answers to the polls made in the next `n` steps (R228). -/
def pollAnswers : Nat → State → List (Option KeyCode)
  | 0, _ => []
  | n + 1, s =>
    (if s.phase = .poll then [pollKey s.now] else []) ++
      (match step s with
       | .next t => pollAnswers n t
       | _ => [])

/-- `n` steps of the machine. -/
def runSteps (n : Nat) (s : State) : Host.Outcome State Fault Refusal := Host.Core.run Sys2Proof.core n s

/-- The word an instruction of the MODE, CHAN and CW rows offers to the sink, from the latched Action and the position
(R83, R163 to R168); `none` for every other row. -/
def offeredWord (i : Instr) (s : State) : Option Word :=
  let blend (mode : BlendMode) (chan : Chan) : Word := blendWord mode chan s.cfg s.act s.frm.toNat s.pix.toNat
  match i with
  | .modeSolidfill => some (blend .solidFill (actionChan s.act))
  | .modeUniformcolor => some (blend .uniformColor (actionChan s.act))
  | .modeWeightedbicolor => some (blend .weightedBicolor (actionChan s.act))
  | .modeDirect => some (blend .direct (actionChan s.act))
  | .chanR => some (blend .uniformColor .r)
  | .chanG => some (blend .uniformColor .g)
  | .chanB => some (blend .uniformColor .b)
  | .colorword g r b => some (packWord g r b)
  | .nokey _ | .key0 | .key1 | .key2 | .key3 | .key4 | .key5 | .key6 | .key7 | .key8 | .key9
  | .keyA | .keyB | .keyC | .keyD | .keyStar | .keyHash
  | .actNoop | .actTurnoff | .actFillsolid _ _ _ | .actPlaysequence _ _ _ _ _ _ | .chanReserved => none

/-- An endless supply of input samples that never resets, is ready infinitely often and ticks infinitely often
(R259, R316). -/
def Fair (inputs : Nat → Input) : Prop :=
  (∀ i, (inputs i).rst = false) ∧
  (∀ i, ∃ j, i ≤ j ∧ (inputs j).ready = true) ∧
  (∀ i, ∃ j, i ≤ j ∧ (inputs j).tick = true)

/-- `s` with the first `n` of an endless supply of samples given. -/
def State.feed (s : State) (inputs : Nat → Input) (n : Nat) : State := { s with inputs := (List.range n).map inputs }

end Sys2Proof.Machine
end

