-- ==== Sys2Proof/Certificates/Slice0/Obligations.lean ====
section
/-! DEFINITION. The statements about the block, each from a rule of spec/, for the provers. -/

open Sys2Proof Sys2Proof.Machine

/-! ### Encodings -/

/-- Decoding the encoding of a well-formed instruction gives it back, every operand at every value (R80 to R86). -/
def Obligations.DecodeOfEncodeIsTheInstruction : Prop :=
  ∀ i : Instr, i.wf = true → decode (encode i).format (encode i).bits = .ok i

/-- R81, R82, R90: all 32 values of the key port are commands, exact on five bits for a key and on bit 4 alone for no key,
and each encodes back to itself. -/
def Obligations.KeyPortValuesAreCommands : Prop :=
  ∀ w : BitVec 5,
    (w.getLsbD 4 = false → decodeKey w = .nokey (w.extractLsb' 0 4)) ∧
    (∀ k : KeyCode, w.getLsbD 4 = true → w.extractLsb' 0 4 = k.code → decodeKey w = keyInstr k) ∧
    encode (decodeKey w) = ⟨.key, w.toNat⟩

/-- A few words written out from the spec's encodings decode to what they stand for (R81 to R86). -/
def Obligations.WrittenWordsDecode : Prop :=
  decode .key 0b00000 = .ok (.nokey 0) ∧
  decode .key 0b01010 = .ok (.nokey 0xA) ∧
  decode .key 0b10110 = .ok .key6 ∧
  decode .key 0b11010 = .ok .keyA ∧
  decode .key 0b11110 = .ok .keyStar ∧
  decode .key 0b11111 = .ok .keyHash ∧
  decode .mode 0b10 = .ok .modeWeightedbicolor ∧
  decode .chan 0b01 = .ok .chanG ∧
  decode .act 0b00000001_00000010_11111111_00_00_0000_10 = .ok (.actFillsolid 0xFF 2 1) ∧
  decode .act 0b00000000_00000000_00000000_10_01_0110_11 = .ok (.actPlaysequence 6 .uniformColor .b 0 0 0) ∧
  decode .cw 0b01001100_00011001_10110010_00000000 = .ok (.colorword 0x4C 0x19 0xB2)

/-- R91(e), (f): descriptors with a reserved SeqId or channel that they read, and words whose low byte is not zero, are
rejected by name. -/
def Obligations.ReservedWordsAreRejected : Prop :=
  (∀ w : BitVec 34, w.extractLsb' 0 2 = 3 → 13 ≤ (w.extractLsb' 2 4).toNat →
    decode .act w.toNat = .error .reservedSeqId) ∧
  (∀ w : BitVec 34, w.extractLsb' 0 2 = 3 → (w.extractLsb' 2 4).toNat < 13 →
    w.extractLsb' 6 2 = 1 → w.extractLsb' 8 2 = 3 → decode .act w.toNat = .error .reservedChannel) ∧
  (∀ w : Word, w.extractLsb' 0 8 ≠ 0 → decode .cw w.toNat = .error .nonZeroLowByte)

/-- R87: the SEQ word of a directory entry whose counters and base address fit their fields reads back as the entry
(field places and the base's 17 bits: log 17). -/
def Obligations.SequenceWordReadsBack : Prop :=
  ∀ e : SeqEntry, e.desc.nframes ≤ 255 → e.desc.repeats ≤ 255 → e.desc.delayMs ≤ 65535 → e.base < 2 ^ 17 →
    SeqEntry.decode e.encode = e

/-! ### ColorEncoder -/

/-- R113, R114: green at [31:24], red at [23:16], blue at [15:8], zero below. -/
def Obligations.ColorWordPacksChannelCodes : Prop :=
  ∀ c : Color,
    (encodeColor c).extractLsb' 24 8 = q8 c.g ∧
    (encodeColor c).extractLsb' 16 8 = q8 c.r ∧
    (encodeColor c).extractLsb' 8 8 = q8 c.b ∧
    (encodeColor c).extractLsb' 0 8 = 0

/-- R111, R112: the channel code is the exact product truncated, after clamping; 255 only for an intensity of 1 or more. -/
def Obligations.ChannelCodeTruncatesTheClampedProduct : Prop :=
  ∀ c : Intensity,
    (c < 0 → q8 c = 0) ∧
    (1 < c → q8 c = 255) ∧
    (0 ≤ c → c ≤ 1 → ((q8 c).toNat : Intensity) ≤ c * 255 ∧ c * 255 < ((q8 c).toNat : Intensity) + 1) ∧
    (q8 c = 255 ↔ 1 ≤ c) ∧
    q8 0 = 0 ∧ q8 (1 / 5) = 51 ∧ q8 (1 / 2) = 127 ∧ q8 (4 / 5) = 204 ∧ q8 1 = 255

/-- R118, all six properties of `encode`. -/
def Obligations.ColorWordProperties : Prop :=
  encodeColor ⟨0, 0, 0⟩ = 0 ∧
  (∀ c : Color, (encodeColor c).extractLsb' 0 8 = 0) ∧
  (∀ r r' g b : Intensity, r ≤ r' →
    ((encodeColor ⟨r, g, b⟩).extractLsb' 16 8).toNat ≤ ((encodeColor ⟨r', g, b⟩).extractLsb' 16 8).toNat ∧
    (encodeColor ⟨r, g, b⟩).extractLsb' 24 8 = (encodeColor ⟨r', g, b⟩).extractLsb' 24 8 ∧
    (encodeColor ⟨r, g, b⟩).extractLsb' 8 8 = (encodeColor ⟨r', g, b⟩).extractLsb' 8 8) ∧
  (∀ r g g' b : Intensity, g ≤ g' →
    ((encodeColor ⟨r, g, b⟩).extractLsb' 24 8).toNat ≤ ((encodeColor ⟨r, g', b⟩).extractLsb' 24 8).toNat ∧
    (encodeColor ⟨r, g, b⟩).extractLsb' 16 8 = (encodeColor ⟨r, g', b⟩).extractLsb' 16 8 ∧
    (encodeColor ⟨r, g, b⟩).extractLsb' 8 8 = (encodeColor ⟨r, g', b⟩).extractLsb' 8 8) ∧
  (∀ r g b b' : Intensity, b ≤ b' →
    ((encodeColor ⟨r, g, b⟩).extractLsb' 8 8).toNat ≤ ((encodeColor ⟨r, g, b'⟩).extractLsb' 8 8).toNat ∧
    (encodeColor ⟨r, g, b⟩).extractLsb' 24 8 = (encodeColor ⟨r, g, b'⟩).extractLsb' 24 8 ∧
    (encodeColor ⟨r, g, b⟩).extractLsb' 16 8 = (encodeColor ⟨r, g, b'⟩).extractLsb' 16 8) ∧
  (∀ c c' : Color, encodeColor c = encodeColor c' ↔ q8 c.r = q8 c'.r ∧ q8 c.g = q8 c'.g ∧ q8 c.b = q8 c'.b) ∧
  (∀ w : Word, w.extractLsb' 0 8 = 0 ↔ ∃ c : Color, encodeColor c = w) ∧
  encodeColor ⟨1, 1, 1⟩ = 0xFFFFFF00 ∧ encodeColor ⟨0, 1, 0⟩ = 0xFF000000 ∧
  encodeColor ⟨0, 0, 1⟩ = 0x0000FF00 ∧ encodeColor ⟨1 / 5, 1 / 5, 1 / 5⟩ = 0x33333300 ∧
  encodeColor ⟨4 / 5, 0, 0⟩ = 0x00CC0000

/-- R119: blending stored channel codes and packing gives the words that blending intensities and encoding gives. -/
def Obligations.StoredCodesGiveTheSameWord : Prop :=
  ∀ (mode : BlendMode) (chan : Chan) (c : Color) (e : Option Entry) (i : Nat),
    (pixColor mode chan c e i).map encodeColor =
      codeWord mode chan (q8 c.r) (q8 c.g) (q8 c.b) (e.map entryCodes) i

/-- The colour the model gives a descriptor's three codes (log 9) encodes to the word of those codes (R88). -/
def Obligations.DescriptorColourHasItsCodes : Prop :=
  ∀ r g b : Code, encodeColor (colorOfCodes r g b) = packWord g r b

/-! ### FrameLibrary -/

/-- R147, R52: in a well-formed configuration every frame has exactly 25 entries of its sequence's kind, and FrameRead
reads each of them and nothing else. -/
def Obligations.WellFormedFramesHave25Entries : Prop :=
  ∀ c : Cfg, cfgWf c = true → ∀ (s : SeqId) (d : SeqDesc) (frames : List Frame),
    c.seq[s.toNat]? = some d → c.frame[s.toNat]? = some frames →
      ∀ f, (f < d.nframes →
          ∃ fr, frames[f]? = some fr ∧ fr.length = 25 ∧
            ∀ p, p ≤ 24 → ∃ e, fr[p]? = some e ∧ entryFits d.kind e = true ∧ frameRead c s f p = some e) ∧
        (∀ p, d.nframes ≤ f ∨ 24 < p → frameRead c s f p = none)

/-- R51: an entry stands at `base[s] + 25*f + p` of the linear image of the frame ROM. -/
def Obligations.LinearLayoutHoldsEveryEntry : Prop :=
  ∀ c : Cfg, cfgWf c = true → ∀ (s : SeqId) (d : SeqDesc) (f p : Nat),
    c.seq[s.toNat]? = some d → f < d.nframes → p ≤ 24 →
      (romImage c)[romAddr c s f p]? = frameRead c s f p

/-- D16, D17: the configuration at reset (the model's choice of the open parameters, log 2, with the spec's own free
frames, log 3) is well-formed and conforming (R146, R149). -/
def Obligations.ReferenceConfigurationConforms : Prop :=
  cfgWf refCfg = true ∧ conforms refCfg = true

/-! ### What Actions, keys and runs emit -/

/-- R172: exactly `25 * nfr(a) * nrep(a)` words, whatever the colour and the frames. -/
def Obligations.ActionEmitsItsWordCount : Prop :=
  ∀ (c : Cfg) (a : Action), (emits (events c a)).length = 25 * nfr c a * nrep c a

/-- R170: a wait between every two frames, `nfr*nrep - 1` of them, each of the sequence's delay, and none after the last. -/
def Obligations.WaitsOnlySeparateFrames : Prop :=
  ∀ (c : Cfg) (a : Action),
    sleeps (events c a) = List.replicate (nfr c a * nrep c a - 1) (dly c a) ∧
    ∀ d, (events c a).getLast? ≠ some (.sleep d)

/-- R171: every wait follows a multiple of 25 words, and every maximal run of words has a multiple of 25. -/
def Obligations.ActionsEmitWholeFrames : Prop :=
  ∀ (c : Cfg) (a : Action),
    (∀ before d after, events c a = before ++ .sleep d :: after → (emits before).length % 25 = 0) ∧
    (∃ n, wordsSinceSleep 0 (events c a) = some n ∧ n % 25 = 0)

/-- R163 to R166, R168: the word of each Action and mode, from the entry at position `24 - i`. -/
def Obligations.WordOfEveryMode : Prop :=
  ∀ (c : Cfg) (s : SeqId) (col : Color) (chan : Chan) (f i : Nat), i ≤ 24 →
    word c .turnOff f i = 0 ∧
    word c (.fillSolid col) f i = encodeColor col ∧
    word c (.playSequence s col .solidFill chan) f i = encodeColor col ∧
    (∀ e, frameRead c s f (24 - i) = some (.scalar e) →
      word c (.playSequence s col .uniformColor .r) f i = encodeColor ⟨e, col.g, col.b⟩ ∧
      word c (.playSequence s col .uniformColor .g) f i = encodeColor ⟨col.r, e, col.b⟩ ∧
      word c (.playSequence s col .uniformColor .b) f i = encodeColor ⟨col.r, col.g, e⟩ ∧
      (i % 2 = 0 → word c (.playSequence s col .weightedBicolor chan) f i = encodeColor ⟨0, 0, e⟩) ∧
      (i % 2 = 1 → word c (.playSequence s col .weightedBicolor chan) f i = encodeColor ⟨e, 0, 0⟩)) ∧
    (∀ er eg eb, frameRead c s f (24 - i) = some (.triple er eg eb) →
      word c (.playSequence s col .direct chan) f i = encodeColor ⟨er, eg, eb⟩)

/-- R94: the pseudo-commands have equal events. -/
def Obligations.PseudoCommandsHaveEqualEvents : Prop :=
  (∀ c : Cfg, events c .turnOff = events c (.fillSolid ⟨0, 0, 0⟩)) ∧
  (∀ (c : Cfg) (s : SeqId) (d : SeqDesc) (col : Color) (chan : Chan),
    c.seq[s.toNat]? = some d → d.nframes = 1 → d.repeats = 1 →
      events c (.playSequence s col .solidFill chan) = events c (.fillSolid col)) ∧
  (∀ (c : Cfg) (s : SeqId) (d : SeqDesc) (col : Color) (mode : BlendMode) (chan : Chan),
    c.seq[s.toNat]? = some d → d.nframes = 0 ∨ d.repeats = 0 →
      events c (.playSequence s col mode chan) = events c .noOp) ∧
  (∀ (c : Cfg) (k : KeyCode) (n : Nat),
    runEvents c (scriptAnswers [.held k n]) = runEvents c (scriptAnswers (List.replicate n (.key k))))

/-- R178: zero frames or cycles emit nothing and never enter EMIT; one frame once has no wait; a zero delay is still a wait
event, and GAP is left at once; the count law holds in all three. -/
def Obligations.DegenerateShapes : Prop :=
  (∀ (c : Cfg) (a : Action), nfr c a = 0 ∨ nrep c a = 0 → events c a = [] ∧ words c a = 0) ∧
  (∀ (k : KeyCode) (s : State), s.phase = .poll → words s.cfg (bindRead s.cfg k) = 0 →
    ∃ t, exec (keyInstr k) s = .next t ∧ t.phase = .hold ∧ t.trace = s.trace ++ [.sleep 200]) ∧
  (∀ (c : Cfg) (a : Action), nfr c a * nrep c a = 1 → (emits (events c a)).length = 25 ∧ sleeps (events c a) = []) ∧
  (∀ (c : Cfg) (a : Action), dly c a = 0 →
    sleeps (events c a) = List.replicate (nfr c a * nrep c a - 1) 0 ∧
    (emits (events c a)).length = 25 * nfr c a * nrep c a) ∧
  (∀ s : State, cfgWf s.cfg = true → s.now.rst = false → s.phase = .gap → s.tmr = 0 →
    ∃ t, step s = .next t ∧ t.phase = .emit ∧ t.trace = s.trace)

/-- R220, R222, R225: what the keys with a binding fixed by the source add to the trace under every conforming
configuration; and the shape of the counting animation under key `'6'`. -/
def Obligations.FixedKeysOfEveryConformingConfiguration : Prop :=
  ∀ c : Cfg, conforms c = true →
    (decode .key 0x1A = .ok .keyA ∧ bindRead c .kA = .turnOff ∧
      keyEvents c .kA = List.replicate 25 (.emit 0x00000000) ++ [.sleep 200]) ∧
    (decode .key 0x1C = .ok .keyC ∧ bindRead c .kC = .fillSolid ⟨1, 0, 0⟩ ∧
      keyEvents c .kC = List.replicate 25 (.emit 0x00FF0000) ++ [.sleep 200]) ∧
    (decode .key 0x1F = .ok .keyHash ∧ bindRead c .hash = .fillSolid ⟨1 / 5, 1 / 5, 1 / 5⟩ ∧
      keyEvents c .hash = List.replicate 25 (.emit 0x33333300) ++ [.sleep 200]) ∧
    ((emits (keyEvents c .k6)).length = 150 ∧ sleeps (keyEvents c .k6) = [400, 400, 400, 400, 400, 200])

/-- R181: EXPLOSION emits its caller's colour 525 times, whatever its frames, with 20 waits. -/
def Obligations.ExplosionIgnoresItsFrames : Prop :=
  ∀ (c : Cfg) (k : KeyCode) (col : Color) (mode : BlendMode) (chan : Chan),
    conforms c = true → bindRead c k = .playSequence seqExplosion col mode chan →
      emits (events c (bindRead c k)) = List.replicate 525 (encodeColor col) ∧
      (sleeps (events c (bindRead c k))).length = 20

/-- R229: the waits of a handled key. -/
def Obligations.WaitsOfAHandledKey : Prop :=
  ∀ (c : Cfg) (k : KeyCode),
    (sleeps (keyEvents c k)).sum =
      if words c (bindRead c k) = 0 then 200
      else (nfr c (bindRead c k) * nrep c (bindRead c k) - 1) * dly c (bindRead c k) + 200

/-! ### The step and what it runs -/

/-- One edge without reset runs the instruction that its phase gives it, and consumes its input sample: the command on the
key port in POLL, the latched Action's mode in EMIT, the wait in GAP and HOLD (R201, R202, R174 to R176, R207, R275(b)). -/
def Obligations.StepRunsTheFetchedInstruction : Prop :=
  ∀ s : State, cfgWf s.cfg = true → s.now.rst = false →
    (∀ i : Instr, s.phase = .poll → i.wf = true → encode i = ⟨.key, (portCommand s.now).toNat⟩ →
      step s = endEdge (exec i s)) ∧
    (s.phase = .poll → step s = endEdge (exec (decodeKey (portCommand s.now)) s)) ∧
    (s.phase = .emit → step s = endEdge (exec (modeRow (actionMode s.act)) s)) ∧
    (s.phase = .gap → step s = .next (gapEdge s).consume) ∧
    (s.phase = .hold → step s = .next (holdEdge s).consume)

/-- In EMIT the word on the pixel port is a color word, and the edge is the transfer of that word (R38, R83, R168, R254). -/
def Obligations.EmitEdgeTransfersTheOfferedWord : Prop :=
  ∀ s : State, cfgWf s.cfg = true → actionWf s.cfg s.act = true → s.now.rst = false → s.phase = .emit →
    ∃ g r b, decode .cw (pixData s).toNat = .ok (.colorword g r b) ∧ step s = endEdge (exec (.colorword g r b) s)

/-- A table word that decodes, placed by withFetchWord, is what the very next step runs (log 16). -/
def Obligations.PlacedTableWordRunsNext : Prop :=
  ∀ (s : State) (nbits w : Nat) (i : Instr), cfgWf s.cfg = true → decodeTableWord nbits w = some i →
    step (s.withFetchWord nbits w) = endEdge (exec i (s.withFetchWord nbits w))

/-- R300, R302: `rst` overrides every step, whatever the phase and the other inputs, appends nothing, and leaves the LED
string as it was unless a frame was cut short. -/
def Obligations.ResetOverridesEveryStep : Prop :=
  ∀ s : State, cfgWf s.cfg = true → s.now.rst = true →
    ∃ t, step s = .next t ∧ t.phase = .poll ∧ t.act = .noOp ∧ t.rep = 0 ∧ t.frm = 0 ∧ t.pix = 0 ∧ t.tmr = 0 ∧
      t.trace = s.trace ∧ t.cfg = s.cfg ∧ (¬(s.phase = .emit ∧ s.pix ≠ 0) → t.disp = s.disp)

/-- R36: the reset state, and the flag and wires it shows. -/
def Obligations.ResetStateIsIdle : Prop :=
  State.reset.phase = .poll ∧ State.reset.act = .noOp ∧ State.reset.rep = 0 ∧ State.reset.frm = 0 ∧
  State.reset.pix = 0 ∧ State.reset.tmr = 0 ∧ State.reset.trace = [] ∧
  dstate State.reset = .idle ∧ busy State.reset = false ∧ pixValid State.reset = false

/-- R37: the invariant holds at reset. -/
def Obligations.ResetStateMeetsTheInvariant : Prop := State.reset.Inv

/-- R37: every step keeps the invariant. -/
def Obligations.StepKeepsTheInvariant : Prop :=
  ∀ s t : State, s.Inv → step s = .next t → t.Inv

/-- R270, R287: a state that meets the invariant never faults and is never refused. -/
def Obligations.InvariantStatesAlwaysStep : Prop :=
  ∀ s : State, s.Inv → ∃ t, step s = .next t

/-- An ill-formed configuration is refused (R272, R146). That every step refuses it, an edge with reset included, and that a
descriptor which the configuration could not hold is refused at its dispatch, is the model's inference (log 12). -/
def Obligations.IllFormedConfigurationIsRefused : Prop :=
  (∀ s : State, cfgWf s.cfg = false → step s = .refused .illFormedConfig) ∧
  (∀ (s : State) (seq : SeqId) (mode : BlendMode) (chan : Chan) (cr cg cb : Code),
    s.phase = .poll → actionWf s.cfg (.playSequence seq (colorOfCodes cr cg cb) mode chan) = false →
      exec (.actPlaysequence seq mode chan cr cg cb) s = .refused .illFormedConfig)

/-! ### Keys and Actions -/

/-- R201, R226: no key, no effect, whatever the code wires show. -/
def Obligations.NoKeyHasNoEffect : Prop :=
  (∀ (c : BitVec 4) (s : State), exec (.nokey c) s = .next s) ∧
  (∀ s : State, cfgWf s.cfg = true → s.now.rst = false → s.phase = .poll → s.now.keyValid = false →
    step s = .next s.consume ∧ dstate s.consume = .idle)

/-- R202: in POLL a key latches its Action; an Action with no word goes to the hold, any other starts at its first word. -/
def Obligations.KeyDispatchesItsBinding : Prop :=
  ∀ (k : KeyCode) (s : State), s.phase = .poll →
    (words s.cfg (bindRead s.cfg k) = 0 →
      exec (keyInstr k) s = .next
        { s with
          act := bindRead s.cfg k, phase := .hold, tmr := 200, rep := 0, frm := 0, pix := 0
          trace := s.trace ++ [.sleep 200] }) ∧
    (words s.cfg (bindRead s.cfg k) ≠ 0 →
      exec (keyInstr k) s = .next
        { s with act := bindRead s.cfg k, phase := .emit, rep := 0, frm := 0, pix := 0 })

/-- R227, R252: a key command outside POLL has no effect (the model's reading of a command there: log 5), and whatever the
key port shows outside POLL, the step is the same. -/
def Obligations.KeysAreNotSeenWhileBusy : Prop :=
  (∀ (k : KeyCode) (s : State), s.phase ≠ .poll → exec (keyInstr k) s = .next s) ∧
  (∀ (s : State) (i : Input) (rest : List Input) (v : Bool) (code : BitVec 4), s.phase ≠ .poll →
    step { s with inputs := { i with keyValid := v, keyCode := code } :: rest } = step { s with inputs := i :: rest })

/-- R275: `rst` overrides, and otherwise each phase reads its own input and ignores the others. -/
def Obligations.EachPhaseReadsOneInput : Prop :=
  ∀ (s : State) (i j : Input) (rest : List Input),
    (i.rst = true ∧ j.rst = true) ∨
    (i.rst = false ∧ j.rst = false ∧
      ((s.phase = .poll ∧ pollKey i = pollKey j) ∨
       (s.phase = .emit ∧ i.ready = j.ready) ∨
       ((s.phase = .gap ∨ s.phase = .hold) ∧ i.tick = j.tick))) →
    step { s with inputs := i :: rest } = step { s with inputs := j :: rest }

/-- R202 to R206: in POLL an Action descriptor is dispatched; in every other phase it has no effect (R277; log 5). -/
def Obligations.DescriptorsDispatchTheirAction : Prop :=
  (∀ s : State, s.phase = .poll →
    exec .actNoop s = .next
      { s with
        act := .noOp, phase := .hold, tmr := 200, rep := 0, frm := 0, pix := 0
        trace := s.trace ++ [.sleep 200] } ∧
    exec .actTurnoff s = .next { s with act := .turnOff, phase := .emit, rep := 0, frm := 0, pix := 0 } ∧
    (∀ cr cg cb : Code, exec (.actFillsolid cr cg cb) s = .next
      { s with act := .fillSolid (colorOfCodes cr cg cb), phase := .emit, rep := 0, frm := 0, pix := 0 }) ∧
    (∀ (seq : SeqId) (mode : BlendMode) (chan : Chan) (cr cg cb : Code),
      actionWf s.cfg (.playSequence seq (colorOfCodes cr cg cb) mode chan) = true →
      exec (.actPlaysequence seq mode chan cr cg cb) s = .next
        (if words s.cfg (.playSequence seq (colorOfCodes cr cg cb) mode chan) = 0 then
          { s with
            act := .playSequence seq (colorOfCodes cr cg cb) mode chan
            phase := .hold, tmr := 200, rep := 0, frm := 0, pix := 0
            trace := s.trace ++ [.sleep 200] }
        else
          { s with
            act := .playSequence seq (colorOfCodes cr cg cb) mode chan
            phase := .emit, rep := 0, frm := 0, pix := 0 }))) ∧
  (∀ s : State, s.phase ≠ .poll →
    exec .actNoop s = .next s ∧ exec .actTurnoff s = .next s ∧
    (∀ cr cg cb : Code, exec (.actFillsolid cr cg cb) s = .next s) ∧
    (∀ (seq : SeqId) (mode : BlendMode) (chan : Chan) (cr cg cb : Code),
      exec (.actPlaysequence seq mode chan cr cg cb) s = .next s))

/-- What key commands and descriptors leave unchanged when they answer a next state: both ROMs, the LED string, the inputs;
outside POLL everything (the model's reading of a command there, log 5); and in POLL they write no register but `act`, `phase`, `rep`, `frm`, `pix` and, entering the hold,
`tmr`, with its one event (R25, R54, R202, R207). -/
def Obligations.FrameOfKeysAndDescriptors : Prop :=
  ∀ (i : Instr) (s t : State), (encode i).format = .key ∨ (encode i).format = .act → exec i s = .next t →
    t.cfg = s.cfg ∧ t.disp = s.disp ∧ t.inputs = s.inputs ∧ t.edge = s.edge ∧
    (∀ k, bindRead t.cfg k = bindRead s.cfg k) ∧
    (∀ q f p, frameRead t.cfg q f p = frameRead s.cfg q f p) ∧
    (s.phase ≠ .poll → t = s) ∧
    ((∃ c, i = .nokey c) → t = s) ∧
    (t.phase ≠ .hold → t.tmr = s.tmr ∧ t.trace = s.trace) ∧
    (s.phase = .poll → t.phase = .hold → t.tmr = 200 ∧ t.trace = s.trace ++ [.sleep 200])

/-! ### The EMIT edge -/

/-- A color word at an EMIT edge: transferred when the sink is ready, with the position's advance, else nothing changes
(R174, R175, R254). What the LED string shows at a frame's end is the model's (log 13), and so is the reading of the row
outside EMIT, where it has no effect (log 5). -/
def Obligations.ColorwordTransfersToTheSink : Prop :=
  ∀ (g r b : Code) (s : State),
    (s.phase ≠ .emit → exec (.colorword g r b) s = .next s) ∧
    (s.phase = .emit → s.pix.toNat ≤ 24 → s.now.ready = false → exec (.colorword g r b) s = .next s) ∧
    (s.phase = .emit → s.pix.toNat < 24 → s.now.ready = true →
      exec (.colorword g r b) s = .next
        { s with trace := s.trace ++ [.emit (packWord g r b)], pix := s.pix + 1 }) ∧
    (s.phase = .emit → s.pix = 24 → s.now.ready = true → isLast s = true →
      exec (.colorword g r b) s = .next
        { s with
          phase := .hold, tmr := 200, rep := 0, frm := 0, pix := 0, disp := lastFrame (s.trace ++ [.emit (packWord g r b)])
          trace := s.trace ++ [.emit (packWord g r b), .sleep 200] }) ∧
    (s.phase = .emit → s.pix = 24 → s.now.ready = true → isLast s = false → s.frm.toNat + 1 < nfr s.cfg s.act →
      exec (.colorword g r b) s = .next
        { s with
          phase := .gap, tmr := BitVec.ofNat 16 (dly s.cfg s.act), frm := s.frm + 1, pix := 0, disp := lastFrame (s.trace ++ [.emit (packWord g r b)])
          trace := s.trace ++ [.emit (packWord g r b), .sleep (dly s.cfg s.act)] }) ∧
    (s.phase = .emit → s.pix = 24 → s.now.ready = true → isLast s = false → nfr s.cfg s.act ≤ s.frm.toNat + 1 →
      exec (.colorword g r b) s = .next
        { s with
          phase := .gap, tmr := BitVec.ofNat 16 (dly s.cfg s.act), frm := 0, rep := s.rep + 1, pix := 0, disp := lastFrame (s.trace ++ [.emit (packWord g r b)])
          trace := s.trace ++ [.emit (packWord g r b), .sleep (dly s.cfg s.act)] }) ∧
    (s.phase = .emit → 24 < s.pix.toNat → exec (.colorword g r b) s = .fault .noStepRule)

/-- Every mode and every channel that is not reserved: an EMIT edge to a ready sink transfers `encode` of the blend that
R163 to R166 give, and answers the state that the acceptance of that word leaves. That a row blends the latched Action's
colour and frame entry, whatever mode that Action itself has, is the model's choice (log 24). -/
def Obligations.ModeAndChannelEdgesTransferTheirBlend : Prop :=
  ∀ (s : State) (c : Color), s.phase = .emit → s.pix.toNat ≤ 24 → s.now.ready = true →
    actionColor s.act = some c →
    exec .modeSolidfill s = .next (accept (encodeColor c) s) ∧
    (∀ e, actionEntry s.cfg s.act s.frm.toNat s.pix.toNat = some (.scalar e) →
      exec .chanR s = .next (accept (encodeColor ⟨e, c.g, c.b⟩) s) ∧
      exec .chanG s = .next (accept (encodeColor ⟨c.r, e, c.b⟩) s) ∧
      exec .chanB s = .next (accept (encodeColor ⟨c.r, c.g, e⟩) s) ∧
      (actionChan s.act = .r → exec .modeUniformcolor s = .next (accept (encodeColor ⟨e, c.g, c.b⟩) s)) ∧
      (actionChan s.act = .g → exec .modeUniformcolor s = .next (accept (encodeColor ⟨c.r, e, c.b⟩) s)) ∧
      (actionChan s.act = .b → exec .modeUniformcolor s = .next (accept (encodeColor ⟨c.r, c.g, e⟩) s)) ∧
      exec .modeWeightedbicolor s = .next
        (accept (encodeColor (if s.pix.toNat % 2 = 0 then ⟨0, 0, e⟩ else ⟨e, 0, 0⟩)) s)) ∧
    (∀ er eg eb, actionEntry s.cfg s.act s.frm.toNat s.pix.toNat = some (.triple er eg eb) →
      exec .modeDirect s = .next (accept (encodeColor ⟨er, eg, eb⟩) s))

/-- Every row that offers a word completes, whatever the latched Action, whose operands it takes (the model's choice, log 24):
nothing changes outside EMIT (the model's reading, log 5) or while the sink stalls, and a ready sink takes the row's word
(a free colour's where the spec defines none, log 10). The one exception is UniformColor with the reserved channel, which
ReservedChannelIsRefused states, and beyond output index 24 there is no rule (log 11). -/
def Obligations.EveryEmitRowCompletes : Prop :=
  ∀ (i : Instr) (w : Word) (s : State), offeredWord i s = some w →
    (i = .modeUniformcolor → actionChan s.act ≠ .reserved) →
    (s.phase ≠ .emit → exec i s = .next s) ∧
    (s.phase = .emit → s.pix.toNat ≤ 24 → s.now.ready = false → exec i s = .next s) ∧
    (s.phase = .emit → s.pix.toNat ≤ 24 → s.now.ready = true → exec i s = .next (accept w s)) ∧
    (s.phase = .emit → 24 < s.pix.toNat → exec i s = .fault .noStepRule)

/-- R86 and R91(e) refuse a configuration that uses the reserved channel. That `exec` refuses the tag's own row, and an EMIT
edge in UniformColor of an Action that holds it, is the model's inference (log 23); that the UniformColor row reads the
latched Action's channel whatever that Action's own mode is the model's choice (log 24). -/
def Obligations.ReservedChannelIsRefused : Prop :=
  (∀ s : State, exec .chanReserved s = .refused .reservedChannel) ∧
  (∀ s : State, s.phase = .emit → actionChan s.act = .reserved →
    exec .modeUniformcolor s = .refused .reservedChannel)

/-- R174, R175: the EMIT step of a well-formed Action: stalled, it changes nothing; taken, it appends the word of the
position and advances it, to the hold after the Action's last word, to the gap after any other frame's (what the LED
string then shows is log 13). -/
def Obligations.EmitStepSendsTheWordOfThePosition : Prop :=
  ∀ s : State, cfgWf s.cfg = true → actionWf s.cfg s.act = true → s.now.rst = false → s.phase = .emit →
    (s.pix.toNat ≤ 24 → s.now.ready = false → step s = .next s.consume) ∧
    (s.pix.toNat < 24 → s.now.ready = true →
      step s = .next (State.consume
        { s with
          trace := s.trace ++ [.emit (word s.cfg s.act s.frm.toNat s.pix.toNat)]
          pix := s.pix + 1 })) ∧
    (s.pix = 24 → s.now.ready = true →
      s.rep.toNat + 1 = nrep s.cfg s.act → s.frm.toNat + 1 = nfr s.cfg s.act →
      ∃ shown, step s = .next (State.consume
        { s with
          phase := .hold, tmr := 200, rep := 0, frm := 0, pix := 0, disp := shown
          trace := s.trace ++ [.emit (word s.cfg s.act s.frm.toNat 24), .sleep 200] })) ∧
    (s.pix = 24 → s.now.ready = true →
      ¬(s.rep.toNat + 1 = nrep s.cfg s.act ∧ s.frm.toNat + 1 = nfr s.cfg s.act) →
      ∃ shown, step s = .next (State.consume
        { s with
          phase := .gap, tmr := BitVec.ofNat 16 (dly s.cfg s.act), pix := 0, disp := shown
          frm := if s.frm.toNat + 1 < nfr s.cfg s.act then s.frm + 1 else 0
          rep := if s.frm.toNat + 1 < nfr s.cfg s.act then s.rep else s.rep + 1
          trace := s.trace ++ [.emit (word s.cfg s.act s.frm.toNat 24), .sleep (dly s.cfg s.act)] }))

/-- What the MODE, CHAN and CW rows leave unchanged when they answer a next state: `act`, both ROMs and the inputs always;
everything while stalled or outside EMIT; within a frame all but `pix` and the one word sent; at a frame's end the sink got
that word alone, and the trace one wait beside it (R25, R54, R174, R175). The word sent is the row's own, blended from the latched Action whatever its mode (the model's
choice, log 24), and that nothing changes outside EMIT is the model's reading (log 5). -/
def Obligations.FrameOfEmitEdges : Prop :=
  ∀ (i : Instr) (w : Word) (s t : State), offeredWord i s = some w → exec i s = .next t →
    t.act = s.act ∧ t.cfg = s.cfg ∧ t.inputs = s.inputs ∧ t.edge = s.edge ∧
    (∀ k, bindRead t.cfg k = bindRead s.cfg k) ∧
    (∀ q f p, frameRead t.cfg q f p = frameRead s.cfg q f p) ∧
    (s.phase ≠ .emit → t = s) ∧
    (s.now.ready = false → t = s) ∧
    (s.phase = .emit → s.now.ready = true → s.pix.toNat < 24 →
      t.phase = s.phase ∧ t.rep = s.rep ∧ t.frm = s.frm ∧ t.tmr = s.tmr ∧ t.disp = s.disp ∧
      t.trace = s.trace ++ [.emit w]) ∧
    (s.phase = .emit → s.now.ready = true → ¬ s.pix.toNat < 24 →
      ∃ d, t.trace = s.trace ++ [.emit w, .sleep d] ∧ t.pix = 0)

/-- R254, R38: while the sink stalls, the word stays offered and does not change. -/
def Obligations.StalledOfferIsStable : Prop :=
  ∀ s : State, s.Inv → s.phase = .emit → s.now.rst = false → s.now.ready = false →
    ∃ t, step s = .next t ∧ pixValid t = true ∧ pixData t = pixData s ∧ t.trace = s.trace

/-! ### The waiting phases -/

/-- R176, R207: entering the hold, and the steps of GAP and HOLD. -/
def Obligations.WaitingSteps : Prop :=
  (∀ s : State, enterHold s =
    { s with
      phase := .hold, tmr := 200, rep := 0, frm := 0, pix := 0
      trace := s.trace ++ [.sleep 200] }) ∧
  (∀ s : State, cfgWf s.cfg = true → s.now.rst = false → s.phase = .gap →
    (s.tmr = 0 → step s = .next (State.consume { s with phase := .emit })) ∧
    (s.tmr ≠ 0 → s.now.tick = true → step s = .next (State.consume { s with tmr := s.tmr - 1 })) ∧
    (s.tmr ≠ 0 → s.now.tick = false → step s = .next s.consume)) ∧
  (∀ s : State, cfgWf s.cfg = true → s.now.rst = false → s.phase = .hold →
    (s.tmr = 0 → step s = .next (State.consume { s with phase := .poll })) ∧
    (s.tmr ≠ 0 → s.now.tick = true → step s = .next (State.consume { s with tmr := s.tmr - 1 })) ∧
    (s.tmr ≠ 0 → s.now.tick = false → step s = .next s.consume))

/-- R256: a wait counts its tick pulses, however far apart they come: as long as every earlier edge found ticks still to
come, the phase stands after `n` edges and `tmr` is down by the ticks among them; and the wait ends at the edge after the
tick that brings `tmr` to 0 (at once for a wait of 0). -/
def Obligations.WaitEndsAfterItsTicks : Prop :=
  ∀ (s : State) (n : Nat), cfgWf s.cfg = true → s.phase = .gap ∨ s.phase = .hold → s.NoReset n →
    (∀ m, m < n → s.highEdges Input.tick m < s.tmr.toNat) →
    (∃ t, runSteps n s = .next t ∧ t.phase = s.phase ∧ t.trace = s.trace ∧
      s.highEdges Input.tick n ≤ s.tmr.toNat ∧ t.tmr.toNat = s.tmr.toNat - s.highEdges Input.tick n) ∧
    (s.highEdges Input.tick n = s.tmr.toNat → s.NoReset (n + 1) →
      ∃ t, runSteps (n + 1) s = .next t ∧ t.trace = s.trace ∧ t.phase = if s.phase = .gap then .emit else .poll)

/-- R286: with a sink that is never ready the block stays in EMIT with the same word offered; with the timebase stopped it
stays in GAP or HOLD. Neither is a fault. -/
def Obligations.StuckWithoutReadyOrTick : Prop :=
  ∀ (s : State) (n : Nat), s.Inv → s.NoReset n →
    (s.phase = .emit → (∀ i, i < n → (s.inputAt i).ready = false) →
      ∃ t, runSteps n s = .next t ∧ t.phase = .emit ∧ t.trace = s.trace ∧ pixData t = pixData s) ∧
    (s.phase = .gap ∨ s.phase = .hold → s.tmr ≠ 0 → (∀ i, i < n → (s.inputAt i).tick = false) →
      ∃ t, runSteps n s = .next t ∧ t.phase = s.phase ∧ t.tmr = s.tmr ∧ t.trace = s.trace)

/-! ### Rules about the whole machine -/

/-- R54, R148: no step changes the configuration, so neither ROM ever reads differently. -/
def Obligations.NoStepChangesTheRoms : Prop :=
  ∀ s t : State, step s = .next t →
    t.cfg = s.cfg ∧ (∀ k, bindRead t.cfg k = bindRead s.cfg k) ∧
    (∀ q f p, frameRead t.cfg q f p = frameRead s.cfg q f p)

/-- R23, R208: Idle turns to Debounce exactly by a poll that returns a key, and Debounce to Idle exactly when the hold ends,
apart from reset. -/
def Obligations.DebounceIsSetByAKeyAndClearedByTheHold : Prop :=
  ∀ s t : State, step s = .next t →
    (dstate s = .idle → (dstate t = .debounce ↔ s.now.rst = false ∧ ∃ k, pollKey s.now = some k)) ∧
    (dstate s = .debounce → (dstate t = .idle ↔ s.now.rst = true ∨ (s.phase = .hold ∧ s.tmr = 0)))

/-- R25: only reset and the dispatch of a key write `act`, the dispatch with the key's binding. -/
def Obligations.OnlyDispatchAndResetWriteAct : Prop :=
  ∀ s t : State, step s = .next t → t.act ≠ s.act →
    (s.now.rst = true ∧ t.act = .noOp) ∨
    (s.now.rst = false ∧ s.phase = .poll ∧ ∃ k, pollKey s.now = some k ∧ t.act = bindRead s.cfg k)

/-- R12, R34: a step only appends to the trace: nothing, a word, a word and a wait, or the wait of the hold; and a word is
appended only in EMIT, to a ready sink, without reset. -/
def Obligations.StepsOnlyAppendToTheTrace : Prop :=
  ∀ s t : State, step s = .next t →
    ∃ new, t.trace = s.trace ++ new ∧
      (new = [] ∨ (∃ w, new = [.emit w]) ∨ (∃ w d, new = [.emit w, .sleep d]) ∨ new = [.sleep 200]) ∧
      (emits new ≠ [] → s.phase = .emit ∧ s.now.ready = true ∧ s.now.rst = false) ∧
      (new = [.sleep 200] → s.phase = .poll)

/-- R59, R171: without reset, no step cuts a frame short: waits follow whole frames, and the frame in progress has as many
words in the trace as `pix` says. -/
def Obligations.StepKeepsFramesWhole : Prop :=
  ∀ s t : State, s.Inv → s.WholeFrames → s.now.rst = false → step s = .next t → t.WholeFrames

/-- R182, R24: no counter wraps: below the last word `pix` counts up by one, and at a frame's end `frm` or `rep` does, each
staying below its bound; the wait is loaded whole (R26). -/
def Obligations.CountersNeverWrap : Prop :=
  ∀ s t : State, s.Inv → s.now.rst = false → s.phase = .emit → s.now.ready = true → step s = .next t →
    nfr s.cfg s.act ≤ 255 ∧ nrep s.cfg s.act ≤ 255 ∧
    (s.pix.toNat < 24 → t.pix.toNat = s.pix.toNat + 1) ∧
    (s.pix.toNat = 24 → t.pix.toNat = 0) ∧
    (t.phase = .gap →
      t.tmr.toNat = dly s.cfg s.act ∧
      ((t.frm.toNat = s.frm.toNat + 1 ∧ t.rep.toNat = s.rep.toNat ∧ t.frm.toNat < nfr s.cfg s.act) ∨
       (t.frm.toNat = 0 ∧ t.rep.toNat = s.rep.toNat + 1 ∧ t.rep.toNat < nrep s.cfg s.act)))

/-- R209, R275(d): when the hold ends, the key of that edge is not seen, and a key shown at the next edge is dispatched, the
same key as before or another. -/
def Obligations.HeldKeyIsDispatchedAgain : Prop :=
  ∀ (s : State) (k : KeyCode), s.Inv → s.phase = .hold → s.tmr = 0 → s.NoReset 2 →
    pollKey (s.inputAt 1) = some k →
    (∃ t, runSteps 1 s = .next t ∧ t.phase = .poll ∧ t.act = s.act) ∧
    (∃ t, runSteps 2 s = .next t ∧ t.act = bindRead s.cfg k ∧ dstate t = .debounce)

/-- R33 (the optional environment model, log 13): from a frame's first word, however the sink stalls, the LED string shows
what it showed until the sink has taken 25 words, and at that edge the frame's words, output index `j` at LED `j`. -/
def Obligations.DisplayShowsTheFrameSent : Prop :=
  ∀ (s : State) (n : Nat), s.Inv → s.phase = .emit → s.pix = 0 → s.NoReset n →
    (s.highEdges Input.ready n < 25 →
      ∃ t, runSteps n s = .next t ∧ t.phase = .emit ∧ t.pix.toNat = s.highEdges Input.ready n ∧ t.disp = s.disp) ∧
    (s.highEdges Input.ready n = 25 → (∀ m, m < n → s.highEdges Input.ready m < 25) →
      ∃ t, runSteps n s = .next t ∧ t.disp = (List.range 25).map (fun j => word s.cfg s.act s.frm.toNat j))

/-! ### Refinement of the event-level semantics -/

/-- R177: from the first word of an Action, under fair inputs, the steps append exactly `events(act)` and the hold's wait,
and arrive in HOLD. -/
def Obligations.PlayRefinesItsEvents : Prop :=
  ∀ (s : State) (inputs : Nat → Input), s.Inv → s.phase = .emit → s.rep = 0 → s.frm = 0 → s.pix = 0 → Fair inputs →
    ∃ n t, runSteps n (s.feed inputs n) = .next t ∧ t.phase = .hold ∧ t.act = s.act ∧
      t.trace = s.trace ++ events s.cfg s.act ++ [.sleep 200]

/-- R228, R200: a key shown in POLL is handled whole under fair inputs: the trace grows by `exec(k)` and the block returns to
POLL. -/
def Obligations.HandledKeyReturnsToPoll : Prop :=
  ∀ (s : State) (inputs : Nat → Input) (k : KeyCode), s.Inv → s.phase = .poll → pollKey (inputs 0) = some k →
    Fair inputs →
    ∃ n t, runSteps n (s.feed inputs n) = .next t ∧ t.phase = .poll ∧ t.act = bindRead s.cfg k ∧
      t.trace = s.trace ++ keyEvents s.cfg k

/-- The safety half of R228: from POLL, without reset, the trace is at every moment a part of `run(CFG, answers)` from its
beginning, and in POLL and HOLD the whole of it, for the answers the block saw. That a fair run gets back to POLL is
HandledKeyReturnsToPoll. -/
def Obligations.RunRefinesItsAnswers : Prop :=
  ∀ (s t : State) (n : Nat), s.Inv → s.phase = .poll → s.NoReset n → runSteps n s = .next t →
    t.trace <+: s.trace ++ runEvents s.cfg (pollAnswers n s) ∧
    (t.phase = .poll ∨ t.phase = .hold → t.trace = s.trace ++ runEvents s.cfg (pollAnswers n s))

/-- R64: two runs of one configuration that saw the same poll answers have the same trace, however long the sink stalled
and whenever the ticks came. -/
def Obligations.TraceDependsOnTheAnswersAlone : Prop :=
  ∀ (s s' t t' : State) (n m : Nat), s.Inv → s'.Inv → s.phase = .poll → s'.phase = .poll →
    s'.cfg = s.cfg → s'.trace = s.trace → s.NoReset n → s'.NoReset m →
    runSteps n s = .next t → runSteps m s' = .next t' → t.phase = .poll → t'.phase = .poll →
    pollAnswers m s' = pollAnswers n s → t'.trace = t.trace

/-! ### The directory of the FrameLibrary ROM -/

/-- R87, R51: under a well-formed configuration the directory's SEQ word of a sequence reads back as its descriptor and its
base address (places and width: log 17), and each of its entries stands at `base + 25*f + p` of the frame table. -/
def Obligations.DirectoryWordsLocateTheFrames : Prop :=
  ∀ c : Cfg, cfgWf c = true → ∀ (s : SeqId) (d : SeqDesc), c.seq[s.toNat]? = some d →
    ∃ w, (romDirectory c)[s.toNat]? = some w ∧ SeqEntry.decode w = ⟨d, romBase c s.toNat⟩ ∧
      ∀ f p, f < d.nframes → p ≤ 24 →
        (romImage c)[(SeqEntry.decode w).base + 25 * f + p]? = frameRead c s f p
end

