-- ==== Sys2Proof/Laws/Encoding.lean ====
section
/-! SUPPORT. The tags and codes read back as what they were written from, and the other way round. -/

namespace Sys2Proof

@[simp] theorem KeyCode.ofCode_code (k : KeyCode) : KeyCode.ofCode k.code = k := by cases k <;> rfl

@[simp] theorem KeyCode.code_ofCode (c : BitVec 4) : (KeyCode.ofCode c).code = c := by
  revert c
  decide

@[simp] theorem BlendMode.ofTag_tag (m : BlendMode) : BlendMode.ofTag m.tag = m := by cases m <;> rfl

@[simp] theorem BlendMode.tag_ofTag (t : BitVec 2) : (BlendMode.ofTag t).tag = t := by
  revert t
  decide

@[simp] theorem Chan.ofTag_tag (c : Chan) : Chan.ofTag c.tag = c := by cases c <;> rfl

@[simp] theorem Chan.tag_ofTag (t : BitVec 2) : (Chan.ofTag t).tag = t := by
  revert t
  decide

@[simp] theorem EntryKind.ofBit_bit (k : EntryKind) : EntryKind.ofBit k.bit = k := by cases k <;> rfl

end Sys2Proof
end

