-- ==== Sys2Proof/Laws/State.lean ====
section
/-! SUPPORT. One lemma per field for each unconditional update of the state, so that no later proof unfolds one. -/

namespace Sys2Proof.Machine

/-! ### The edge is over -/

@[simp] theorem consume_phase (s : State) : (s.consume).phase = s.phase := rfl
@[simp] theorem consume_act (s : State) : (s.consume).act = s.act := rfl
@[simp] theorem consume_rep (s : State) : (s.consume).rep = s.rep := rfl
@[simp] theorem consume_frm (s : State) : (s.consume).frm = s.frm := rfl
@[simp] theorem consume_pix (s : State) : (s.consume).pix = s.pix := rfl
@[simp] theorem consume_tmr (s : State) : (s.consume).tmr = s.tmr := rfl
@[simp] theorem consume_trace (s : State) : (s.consume).trace = s.trace := rfl
@[simp] theorem consume_disp (s : State) : (s.consume).disp = s.disp := rfl
@[simp] theorem consume_cfg (s : State) : (s.consume).cfg = s.cfg := rfl
@[simp] theorem consume_inputs (s : State) : (s.consume).inputs = s.inputs.tail := rfl
@[simp] theorem consume_edge (s : State) : (s.consume).edge = s.edge + 1 := rfl

/-! ### Entering the hold (R207) -/

@[simp] theorem enterHold_phase (s : State) : (enterHold s).phase = .hold := rfl
@[simp] theorem enterHold_act (s : State) : (enterHold s).act = s.act := rfl
@[simp] theorem enterHold_rep (s : State) : (enterHold s).rep = 0 := rfl
@[simp] theorem enterHold_frm (s : State) : (enterHold s).frm = 0 := rfl
@[simp] theorem enterHold_pix (s : State) : (enterHold s).pix = 0 := rfl
@[simp] theorem enterHold_tmr (s : State) : (enterHold s).tmr = BitVec.ofNat 16 debounceMs := rfl
@[simp] theorem enterHold_trace (s : State) : (enterHold s).trace = s.trace ++ [.sleep debounceMs] := rfl
@[simp] theorem enterHold_disp (s : State) : (enterHold s).disp = s.disp := rfl
@[simp] theorem enterHold_cfg (s : State) : (enterHold s).cfg = s.cfg := rfl
@[simp] theorem enterHold_inputs (s : State) : (enterHold s).inputs = s.inputs := rfl
@[simp] theorem enterHold_edge (s : State) : (enterHold s).edge = s.edge := rfl

/-! ### Entering the gap (R175) -/

@[simp] theorem enterGap_phase (s : State) : (enterGap s).phase = .gap := rfl
@[simp] theorem enterGap_act (s : State) : (enterGap s).act = s.act := rfl
@[simp] theorem enterGap_rep (s : State) : (enterGap s).rep = s.rep := rfl
@[simp] theorem enterGap_frm (s : State) : (enterGap s).frm = s.frm := rfl
@[simp] theorem enterGap_pix (s : State) : (enterGap s).pix = s.pix := rfl
@[simp] theorem enterGap_tmr (s : State) : (enterGap s).tmr = BitVec.ofNat 16 (dly s.cfg s.act) := rfl
@[simp] theorem enterGap_trace (s : State) : (enterGap s).trace = s.trace ++ [.sleep (dly s.cfg s.act)] := rfl
@[simp] theorem enterGap_disp (s : State) : (enterGap s).disp = s.disp := rfl
@[simp] theorem enterGap_cfg (s : State) : (enterGap s).cfg = s.cfg := rfl
@[simp] theorem enterGap_inputs (s : State) : (enterGap s).inputs = s.inputs := rfl
@[simp] theorem enterGap_edge (s : State) : (enterGap s).edge = s.edge := rfl

/-! ### Reset (R300) -/

@[simp] theorem resetEdge_phase (s : State) : (resetEdge s).phase = .poll := rfl
@[simp] theorem resetEdge_act (s : State) : (resetEdge s).act = .noOp := rfl
@[simp] theorem resetEdge_rep (s : State) : (resetEdge s).rep = 0 := rfl
@[simp] theorem resetEdge_frm (s : State) : (resetEdge s).frm = 0 := rfl
@[simp] theorem resetEdge_pix (s : State) : (resetEdge s).pix = 0 := rfl
@[simp] theorem resetEdge_tmr (s : State) : (resetEdge s).tmr = 0 := rfl
@[simp] theorem resetEdge_trace (s : State) : (resetEdge s).trace = s.trace := rfl
@[simp] theorem resetEdge_disp (s : State) : (resetEdge s).disp = dispAfterReset s := rfl
@[simp] theorem resetEdge_cfg (s : State) : (resetEdge s).cfg = s.cfg := rfl
@[simp] theorem resetEdge_inputs (s : State) : (resetEdge s).inputs = s.inputs := rfl
@[simp] theorem resetEdge_edge (s : State) : (resetEdge s).edge = s.edge := rfl

/-! ### The input wires -/

theorem inputAt_consume (s : State) (i : Nat) : s.consume.inputAt i = s.inputAt (i + 1) := by
  simp [State.inputAt, Nat.add_assoc, Nat.add_comm 1 i, List.getElem?_tail]

theorem inputAt_given (s : State) (x : Input) (rest : List Input) : ({ s with inputs := x :: rest } : State).now = x := rfl

end Sys2Proof.Machine
end

