-- ==== Sys2Proof/Laws/Ops.lean ====
section
/-! SUPPORT. For each shared operation, one lemma that says once everything it can do, and what it leaves unchanged. -/

namespace Sys2Proof.Machine

/-! ### Dispatch (R202) -/

theorem dispatch_empty {a : Action} {s : State} (h : words s.cfg a = 0) :
    dispatch a s = enterHold { s with act := a } := by
  simp [dispatch, h]

theorem dispatch_plays {a : Action} {s : State} (h : words s.cfg a ≠ 0) :
    dispatch a s = { s with act := a, phase := .emit, rep := 0, frm := 0, pix := 0 } := by
  simp [dispatch, h]

/-- What dispatch leaves unchanged. -/
theorem dispatch_frame (a : Action) (s : State) :
    (dispatch a s).act = a ∧ (dispatch a s).cfg = s.cfg ∧ (dispatch a s).inputs = s.inputs ∧
      (dispatch a s).edge = s.edge ∧ (dispatch a s).disp = s.disp := by
  unfold dispatch
  split <;> simp

theorem pressKey_poll {k : KeyCode} {s : State} (h : s.phase = .poll) :
    pressKey k s = .next (dispatch (bindRead s.cfg k) s) := by
  simp [pressKey, h]

theorem pressKey_busy {k : KeyCode} {s : State} (h : s.phase ≠ .poll) : pressKey k s = .next s := by
  simp [pressKey, h]

/-- All that an Action descriptor can do. -/
theorem runAction_cases (a : Action) (s : State) :
    (s.phase = .poll ∧ actionWf s.cfg a = true ∧ runAction a s = .next (dispatch a s)) ∨
    (s.phase = .poll ∧ actionWf s.cfg a = false ∧ runAction a s = .refused .illFormedConfig) ∨
    (s.phase ≠ .poll ∧ runAction a s = .next s) := by
  unfold runAction
  by_cases hp : s.phase = .poll <;> by_cases hw : actionWf s.cfg a = true <;> simp_all

/-! ### The EMIT edge (R174, R175) -/

theorem nextFrame_sameCycle {s : State} (h : s.frm.toNat + 1 < nfr s.cfg s.act) :
    nextFrame s = { s with pix := 0, frm := s.frm + 1 } := by
  simp [nextFrame, h]

theorem nextFrame_nextCycle {s : State} (h : ¬ s.frm.toNat + 1 < nfr s.cfg s.act) :
    nextFrame s = { s with pix := 0, frm := 0, rep := s.rep + 1 } := by
  simp [nextFrame, h]

/-- What moving to the next frame leaves unchanged. -/
theorem nextFrame_frame (s : State) :
    (nextFrame s).phase = s.phase ∧ (nextFrame s).act = s.act ∧ (nextFrame s).tmr = s.tmr ∧
      (nextFrame s).trace = s.trace ∧ (nextFrame s).disp = s.disp ∧ (nextFrame s).cfg = s.cfg ∧
      (nextFrame s).inputs = s.inputs ∧ (nextFrame s).edge = s.edge ∧ (nextFrame s).pix = 0 := by
  unfold nextFrame
  split <;> simp

theorem accept_midFrame {w : Word} {s : State} (h : s.pix.toNat < lastPix) :
    accept w s = { s with trace := s.trace ++ [.emit w], pix := s.pix + 1 } := by
  simp [accept, h]

theorem accept_actionEnds {w : Word} {s : State} (h : ¬ s.pix.toNat < lastPix) (hl : isLast s = true) :
    accept w s =
      enterHold { s with trace := s.trace ++ [.emit w], disp := lastFrame (s.trace ++ [.emit w]) } := by
  simp [accept, h, hl]

theorem accept_frameEnds {w : Word} {s : State} (h : ¬ s.pix.toNat < lastPix) (hl : isLast s = false) :
    accept w s =
      enterGap (nextFrame
        { s with trace := s.trace ++ [.emit w], disp := lastFrame (s.trace ++ [.emit w]) }) := by
  simp [accept, h, hl]

/-- All that the acceptance of a word can do. -/
theorem accept_cases (w : Word) (s : State) :
    (s.pix.toNat < lastPix ∧ accept w s = { s with trace := s.trace ++ [.emit w], pix := s.pix + 1 }) ∨
    (¬ s.pix.toNat < lastPix ∧ isLast s = true ∧ accept w s =
      enterHold { s with trace := s.trace ++ [.emit w], disp := lastFrame (s.trace ++ [.emit w]) }) ∨
    (¬ s.pix.toNat < lastPix ∧ isLast s = false ∧ accept w s =
      enterGap (nextFrame
        { s with trace := s.trace ++ [.emit w], disp := lastFrame (s.trace ++ [.emit w]) })) := by
  by_cases h : s.pix.toNat < lastPix
  · exact .inl ⟨h, accept_midFrame h⟩
  · cases hl : isLast s with
    | true => exact .inr (.inl ⟨h, rfl, accept_actionEnds h hl⟩)
    | false => exact .inr (.inr ⟨h, rfl, accept_frameEnds h hl⟩)

/-- What the acceptance of a word leaves unchanged. -/
theorem accept_frame (w : Word) (s : State) :
    (accept w s).act = s.act ∧ (accept w s).cfg = s.cfg ∧ (accept w s).inputs = s.inputs ∧
      (accept w s).edge = s.edge := by
  obtain ⟨_, h⟩ | ⟨_, _, h⟩ | ⟨_, _, h⟩ := accept_cases w s <;>
    simp [h, nextFrame_frame]

/-- All that an EMIT edge can do. -/
theorem emitEdge_cases (w : Word) (s : State) :
    (s.phase ≠ .emit ∧ emitEdge w s = .next s) ∨
    (s.phase = .emit ∧ lastPix < s.pix.toNat ∧ emitEdge w s = .fault .noStepRule) ∨
    (s.phase = .emit ∧ s.pix.toNat ≤ lastPix ∧ s.now.ready = true ∧ emitEdge w s = .next (accept w s)) ∨
    (s.phase = .emit ∧ s.pix.toNat ≤ lastPix ∧ s.now.ready = false ∧ emitEdge w s = .next s) := by
  unfold emitEdge
  by_cases hp : s.phase = .emit
  · by_cases hx : lastPix < s.pix.toNat
    · simp [hp, hx]
    · cases hr : s.now.ready <;> simp [hp, hx, Nat.le_of_not_lt hx]
  · simp [hp]

/-! ### The waiting phases (R176, R207, R256) -/

/-- All that an edge of a waiting phase can do. -/
theorem waitEdge_cases (p : Phase) (s : State) :
    (s.tmr = 0 ∧ waitEdge p s = { s with phase := p }) ∨
    (s.tmr ≠ 0 ∧ s.now.tick = true ∧ waitEdge p s = { s with tmr := s.tmr - 1 }) ∨
    (s.tmr ≠ 0 ∧ s.now.tick = false ∧ waitEdge p s = s) := by
  unfold waitEdge
  by_cases h : s.tmr = 0
  · exact .inl ⟨h, if_pos h⟩
  · rw [if_neg h]
    cases ht : s.now.tick with
    | true => exact .inr (.inl ⟨h, rfl, rfl⟩)
    | false => exact .inr (.inr ⟨h, rfl, rfl⟩)

/-! ### Reading the ROMs -/

/-- A SeqId that names a sequence has that sequence's descriptor (R27). -/
theorem seqDesc_named {c : Cfg} {s : SeqId} {d : SeqDesc} (h : c.seq[s.toNat]? = some d) : seqDesc c s = d := by
  simp [seqDesc, h]

theorem bindRead_mem (c : Cfg) (k : KeyCode) : bindRead c k ∈ c.bind.toList := by
  simp [bindRead]

/-- In a well-formed configuration every bound Action is well-formed (R146(c) to (e), R230). -/
theorem actionWf_bindRead {c : Cfg} (h : cfgWf c = true) (k : KeyCode) : actionWf c (bindRead c k) = true := by
  simp only [cfgWf, Bool.and_eq_true, List.all_eq_true] at h
  exact h.2 _ (bindRead_mem c k)

end Sys2Proof.Machine
end

