-- ==== Sys2Proof/Laws/PerInstr.lean ====
section
/-! SUPPORT. Statements made per instruction. Family EncodingFits: an instruction's encoding fits its format's width. -/

namespace Sys2Proof.Laws.EncodingFits

/-- The encoding of an instruction has no bit above its format's width (R80, R83 to R86). -/
def Statement (i : Instr) : Prop := (encode i).bits < 2 ^ (encode i).format.width

theorem nokey (c : BitVec 4) : Statement (.nokey c) := BitVec.isLt _
theorem key0 : Statement .key0 := BitVec.isLt _
theorem key1 : Statement .key1 := BitVec.isLt _
theorem key2 : Statement .key2 := BitVec.isLt _
theorem key3 : Statement .key3 := BitVec.isLt _
theorem key4 : Statement .key4 := BitVec.isLt _
theorem key5 : Statement .key5 := BitVec.isLt _
theorem key6 : Statement .key6 := BitVec.isLt _
theorem key7 : Statement .key7 := BitVec.isLt _
theorem key8 : Statement .key8 := BitVec.isLt _
theorem key9 : Statement .key9 := BitVec.isLt _
theorem keyA : Statement .keyA := BitVec.isLt _
theorem keyB : Statement .keyB := BitVec.isLt _
theorem keyC : Statement .keyC := BitVec.isLt _
theorem keyD : Statement .keyD := BitVec.isLt _
theorem keyStar : Statement .keyStar := BitVec.isLt _
theorem keyHash : Statement .keyHash := BitVec.isLt _
theorem actNoop : Statement .actNoop := BitVec.isLt _
theorem actTurnoff : Statement .actTurnoff := BitVec.isLt _
theorem actFillsolid (cr cg cb : Code) : Statement (.actFillsolid cr cg cb) := BitVec.isLt _
theorem actPlaysequence (seq : SeqId) (mode : BlendMode) (chan : Chan) (cr cg cb : Code) : Statement (.actPlaysequence seq mode chan cr cg cb) := BitVec.isLt _
theorem modeSolidfill : Statement .modeSolidfill := BitVec.isLt _
theorem modeUniformcolor : Statement .modeUniformcolor := BitVec.isLt _
theorem modeWeightedbicolor : Statement .modeWeightedbicolor := BitVec.isLt _
theorem modeDirect : Statement .modeDirect := BitVec.isLt _
theorem chanR : Statement .chanR := BitVec.isLt _
theorem chanG : Statement .chanG := BitVec.isLt _
theorem chanB : Statement .chanB := BitVec.isLt _
theorem chanReserved : Statement .chanReserved := BitVec.isLt _
theorem colorword (g r b : Code) : Statement (.colorword g r b) := BitVec.isLt _

end Sys2Proof.Laws.EncodingFits
end

