-- ==== Sys2Proof/Laws/Step.lean ====
section
/-! SUPPORT. The step said once: everything it can do, for later proofs to cite instead of unfolding it. -/

namespace Sys2Proof.Machine

theorem exec_keyInstr (k : KeyCode) (s : State) : exec (keyInstr k) s = pressKey k s := by
  cases k <;> rfl

theorem exec_modeRow {s : State} (a : Action) (hs : s.phase = .emit) (ha : s.act = a)
    (hc : actionMode a = .uniformColor → actionChan a ≠ .reserved) :
    exec (modeRow (actionMode a)) s = blendEdge (actionMode a) (actionChan a) s := by
  subst ha
  cases hm : actionMode s.act with
  | uniformColor => simp [modeRow, exec, execModeUniformcolor, hs, hc hm]
  | _ => rfl

/-- An EMIT edge of a well-formed Action is the EMIT edge that offers `word(act, frm, pix)` (R168, R174, R175). -/
theorem exec_modeRow_word {s : State} (hs : s.phase = .emit) (hw : actionWf s.cfg s.act = true) :
    exec (modeRow (actionMode s.act)) s = emitEdge (word s.cfg s.act s.frm.toNat s.pix.toNat) s := by
  refine exec_modeRow s.act hs rfl ?_
  cases ha : s.act with
  | playSequence q c m ch =>
    simp only [ha, actionWf] at hw
    cases hq : s.cfg.seq[q.toNat]? with
    | none => simp [hq] at hw
    | some d =>
      simp only [hq, Bool.and_eq_true, chanFits, decide_eq_true_eq] at hw
      exact hw.2
  | _ => simp [actionMode]

/-- All that one step of a state with a well-formed configuration can do. -/
theorem step_cases {s : State} (hw : cfgWf s.cfg = true) :
    (s.now.rst = true ∧ step s = .next (resetEdge s).consume) ∨
    (s.now.rst = false ∧ s.phase = .poll ∧ step s = endEdge (exec (decodeKey (portCommand s.now)) s)) ∨
    (s.now.rst = false ∧ s.phase = .emit ∧ step s = endEdge (exec (modeRow (actionMode s.act)) s)) ∨
    (s.now.rst = false ∧ s.phase = .gap ∧ step s = .next (gapEdge s).consume) ∨
    (s.now.rst = false ∧ s.phase = .hold ∧ step s = .next (holdEdge s).consume) := by
  unfold step fetch idleEdge
  cases hr : s.now.rst <;> cases hp : s.phase <;> simp [hw]

/-- The fields of the command on the key port (R81). -/
theorem portCommand_fields (v : Bool) (c : BitVec 4) :
    (BitVec.ofBool v ++ c).extractLsb' 0 4 = c ∧ (BitVec.ofBool v ++ c).getLsbD 4 = v := by
  revert v c
  decide

/-- A poll runs the key command that `PollKey()` answers, or no command (R201, R202, R251). -/
theorem exec_portCommand (i : Input) (s : State) :
    exec (decodeKey (portCommand i)) s =
      match pollKey i with
      | some k => pressKey k s
      | none => .next s := by
  obtain ⟨hlow, htop⟩ := portCommand_fields i.keyValid i.keyCode
  unfold decodeKey portCommand pollKey
  rw [hlow, htop]
  cases i.keyValid with
  | true => simpa using exec_keyInstr _ s
  | false => rfl

end Sys2Proof.Machine
end

