-- ==== Sys2Proof/Laws/Runs.lean ====
section
/-! SUPPORT. Runs peeled one step at a time: the steps, the samples still to come, the counts of high edges. -/

namespace Sys2Proof.Machine

@[simp] theorem runSteps_zero (s : State) : runSteps 0 s = .next s := rfl

theorem runSteps_succ {s t : State} (n : Nat) (h : step s = .next t) : runSteps (n + 1) s = runSteps n t := by
  simp only [runSteps, Host.Core.run, Sys2Proof.core, h]

@[simp] theorem highEdges_zero (wire : Input → Bool) (s : State) : s.highEdges wire 0 = 0 := rfl

/-- The samples still to come depend on `inputs` and `edge` alone. -/
theorem inputAt_next {s t : State} (hi : t.inputs = s.inputs.tail) (he : t.edge = s.edge + 1) (i : Nat) :
    t.inputAt i = s.inputAt (i + 1) := by
  rw [← inputAt_consume]
  simp [State.inputAt, hi, he]

/-- The first edge counted apart. -/
theorem highEdges_next (wire : Input → Bool) {s t : State} (hi : t.inputs = s.inputs.tail) (he : t.edge = s.edge + 1)
    (n : Nat) : s.highEdges wire (n + 1) = t.highEdges wire n + (if wire s.now then 1 else 0) := by
  simp [State.highEdges, List.range_succ_eq_map, List.countP_cons, List.countP_map, Function.comp_def,
    inputAt_next hi he, State.now]
  rfl

theorem noReset_next {s t : State} (hi : t.inputs = s.inputs.tail) (he : t.edge = s.edge + 1) {n : Nat}
    (h : s.NoReset (n + 1)) : s.now.rst = false ∧ t.NoReset n :=
  ⟨h 0 (Nat.succ_pos n), fun i hn => by rw [inputAt_next hi he]; exact h (i + 1) (Nat.succ_lt_succ hn)⟩

end Sys2Proof.Machine
end

