-- ==== Sys2Proof/Tests/Slice0.lean ====
section
/-! SUPPORT. The model's own tests: expected results from spec/95_test_vectors.md and the rules' worked examples, and a
witness for the hypotheses of every statement that has some. -/

set_option Elab.async false

namespace Sys2Proof.Tests

open Sys2Proof.Machine

/-! ### TESTCFG (95_test_vectors.md, 2.3) and small states -/

/-- RAMP: entry `p/255`. -/
def ramp : Frame := (List.range 25).map (fun (p : Nat) => .scalar ((p : Rat) / 255))

/-- REV: entry `(24 - p)/255`. -/
def rev : Frame := (List.range 25).map (fun (p : Nat) => .scalar (((24 - p : Nat) : Rat) / 255))

/-- DOT(k): 1 at position `k`. -/
def dot (k : Nat) : Frame := (List.range 25).map (fun (p : Nat) => .scalar (if p = k then 1 else 0))

/-- TC(f): entry `(25f + p)/255`. -/
def tc (f : Nat) : Frame := (List.range 25).map (fun (p : Nat) => .scalar (((25 * f + p : Nat) : Rat) / 255))

/-- TRI: triples `(p, p + 100, p + 200)/255`. -/
def tri : Frame :=
  (List.range 25).map (fun (p : Nat) => .triple ((p : Rat) / 255) (((p + 100 : Nat) : Rat) / 255) (((p + 200 : Nat) : Rat) / 255))

/-- TESTCFG: REFCFG with synthetic frames. -/
def testCfg : Cfg :=
  { refCfg with
    frame := #v[[uniformFrame (4 / 5)], [uniformFrame (1 / 5)], [uniformFrame 1], [uniformFrame 0],
      [uniformFrame 1, uniformFrame (1 / 2), uniformFrame (1 / 4), uniformFrame (1 / 2)],
      (List.range 6).map tc,
      [dot 0, dot 6, dot 12, dot 18, dot 24],
      [ramp, rev],
      List.replicate 6 tri,
      [uniformFrame (1 / 5), uniformFrame (2 / 5), uniformFrame (3 / 5), uniformFrame (4 / 5), uniformFrame 1],
      List.replicate 7 ramp,
      [ramp], [rev]] }

/-- TESTCFG with DRAW0 of no frame (2.7, G1). -/
def emptyCfg : Cfg := { testCfg with seq := testCfg.seq.set 11 ⟨0, 3, 200, .scalar⟩ }

/-- TESTCFG with a DRAW0 frame of 24 entries: ill-formed (R146(a)). -/
def shortCfg : Cfg := { testCfg with frame := testCfg.frame.set 11 [ramp.take 24] }

/-- An input sample. -/
def sample (key : Option KeyCode) (ready tick rst : Bool) : Input :=
  { keyValid := key.isSome, keyCode := (key.map KeyCode.code).getD 0, ready := ready, tick := tick, rst := rst }

/-- The reset state under TESTCFG with the given samples. -/
def start (inputs : List Input) : State := { State.reset with cfg := testCfg, disp := [], inputs := inputs }

/-- A state in EMIT. -/
def sending (a : Action) (rep frm : BitVec 8) (pix : BitVec 5) (inputs : List Input) : State :=
  { start inputs with phase := .emit, act := a, rep := rep, frm := frm, pix := pix }

/-- A state in a waiting phase. -/
def waiting (p : Phase) (a : Action) (frm : BitVec 8) (tmr : BitVec 16) (inputs : List Input) : State :=
  { start inputs with phase := p, act := a, frm := frm, tmr := tmr }

/-- The next state of an outcome, if it has one. -/
def nextOf : Host.Outcome State Fault Refusal → Option State
  | .next s => some s
  | .fault _ => none
  | .refused _ => none

theorem of_nextOf {o : Host.Outcome State Fault Refusal} (h : (nextOf o).isSome = true) : ∃ t, o = .next t := by
  cases o with
  | next t => exact ⟨t, rfl⟩
  | fault _ => simp [nextOf] at h
  | refused _ => simp [nextOf] at h

/-- What a test reads of an outcome. -/
def shows (f : State → Bool) (o : Host.Outcome State Fault Refusal) : Bool := (nextOf o).any f

/-- Key `'4'`'s Action under REF_BIND. -/
def arrow : Action := bindRead testCfg .k4

/-! ### WellFormed smoke: an ill-formed term for each check -/

theorem test_wf_refuses_seqid_13 : (Instr.actPlaysequence 13 .solidFill .r 0 0 0).wf = false := by decide
theorem test_wf_refuses_reserved_channel : (Instr.actPlaysequence 5 .uniformColor .reserved 0 0 0).wf = false := by decide
theorem test_wf_refuses_chan_reserved : Instr.chanReserved.wf = false := by decide
theorem test_wf_keeps_unread_channel : (Instr.actPlaysequence 5 .solidFill .reserved 0 0 0).wf = true := by decide

theorem test_cfgWf_refuses_24_entries : cfgWf shortCfg = false := by decide +kernel
theorem test_cfgWf_refuses_256_frames :
    seqWf ⟨256, 1, 200, .scalar⟩ (List.replicate 256 (uniformFrame 0)) = false := by decide +kernel
theorem test_cfgWf_refuses_delay_65536 : seqWf ⟨1, 1, 65536, .scalar⟩ [uniformFrame 0] = false := by decide +kernel
theorem test_cfgWf_refuses_wrong_kind : seqWf ⟨1, 1, 200, .triple⟩ [uniformFrame 0] = false := by decide +kernel
theorem test_actionWf_refuses_seqid_13 :
    actionWf testCfg (.playSequence 13 black .solidFill .r) = false := by decide +kernel
theorem test_actionWf_refuses_direct_on_scalar :
    actionWf testCfg (.playSequence 4 black .direct .r) = false := by decide +kernel
theorem test_testCfg_conforms : conforms testCfg = true := by decide +kernel
theorem test_romImage_has_1025_entries : (romImage testCfg).length = 1025 := by decide +kernel

/-! ### Decoding: words written out from the spec's encodings (30_encoding.md R81 to R86; 95_test_vectors.md 2.1) -/

theorem test_decode_nokey : decode .key 0b00000 = .ok (.nokey 0) ∧ decode .key 0b01010 = .ok (.nokey 10) := ⟨rfl, rfl⟩
theorem test_decode_key0 : decode .key 0b10000 = .ok .key0 := rfl
theorem test_decode_key1 : decode .key 0b10001 = .ok .key1 := rfl
theorem test_decode_key2 : decode .key 0b10010 = .ok .key2 := rfl
theorem test_decode_key3 : decode .key 0b10011 = .ok .key3 := rfl
theorem test_decode_key4 : decode .key 0b10100 = .ok .key4 := rfl
theorem test_decode_key5 : decode .key 0b10101 = .ok .key5 := rfl
theorem test_decode_key6 : decode .key 0b10110 = .ok .key6 := rfl
theorem test_decode_key7 : decode .key 0b10111 = .ok .key7 := rfl
theorem test_decode_key8 : decode .key 0b11000 = .ok .key8 := rfl
theorem test_decode_key9 : decode .key 0b11001 = .ok .key9 := rfl
theorem test_decode_keyA : decode .key 0b11010 = .ok .keyA := rfl
theorem test_decode_keyB : decode .key 0b11011 = .ok .keyB := rfl
theorem test_decode_keyC : decode .key 0b11100 = .ok .keyC := rfl
theorem test_decode_keyD : decode .key 0b11101 = .ok .keyD := rfl
theorem test_decode_keyStar : decode .key 0b11110 = .ok .keyStar := rfl
theorem test_decode_keyHash : decode .key 0b11111 = .ok .keyHash := rfl
theorem test_decode_tooWide : decode .key 0b100000 = .error .tooWide := rfl
/-- cb, cg, cr, chan, mode, seq, kind, from the top. -/
theorem test_decode_actNoop : decode .act 0b00000000_00000000_00000000_00_00_0000_00 = .ok .actNoop := rfl
theorem test_decode_actTurnoff : decode .act 0b00000000_00000000_00000000_00_00_0000_01 = .ok .actTurnoff := rfl
theorem test_decode_actFillsolid :
    decode .act 0b00000001_00000010_11111111_00_00_0000_10 = .ok (.actFillsolid 0xFF 2 1) := rfl
theorem test_decode_actPlaysequence :
    decode .act 0b00000000_00000000_00000000_10_01_0110_11 = .ok (.actPlaysequence 6 .uniformColor .b 0 0 0) := rfl
theorem test_decode_act_reserved :
    decode .act 0b00_01_1101_11 = .error .reservedSeqId ∧ decode .act 0b11_01_0101_11 = .error .reservedChannel :=
  ⟨rfl, rfl⟩
theorem test_decode_modes :
    decode .mode 0b00 = .ok .modeSolidfill ∧ decode .mode 0b01 = .ok .modeUniformcolor ∧
      decode .mode 0b10 = .ok .modeWeightedbicolor ∧ decode .mode 0b11 = .ok .modeDirect := ⟨rfl, rfl, rfl, rfl⟩
theorem test_decode_chans :
    decode .chan 0b00 = .ok .chanR ∧ decode .chan 0b01 = .ok .chanG ∧ decode .chan 0b10 = .ok .chanB ∧
      decode .chan 0b11 = .ok .chanReserved := ⟨rfl, rfl, rfl, rfl⟩
/-- Vector E15: green 76, red 25, blue 178. -/
theorem test_decode_colorword :
    decode .cw 0b01001100_00011001_10110010_00000000 = .ok (.colorword 0x4C 0x19 0xB2) := rfl
theorem test_decode_colorword_lowByte : decode .cw 0x4C19B201 = .error .nonZeroLowByte := rfl
theorem test_table_word_reads_five_wires : decodeTableWord 8 0x35 = some .key5 := rfl
/-- R87's fields for COUNT (6 frames, once, 400 ms, Scalar) at R51's base address of 8 frames of 25 entries. -/
theorem test_seq_word :
    SeqEntry.decode 0b00000000011001000_0_0000000110010000_00000001_00000110 = ⟨⟨6, 1, 400, .scalar⟩, 200⟩ ∧
      (romDirectory testCfg)[5]? = some 0b00000000011001000_0_0000000110010000_00000001_00000110 := by
  decide +kernel

/-! ### ColorEncoder (95_test_vectors.md 2.2) -/

theorem test_encode_E2_red : encodeColor ⟨1, 0, 0⟩ = 0x00FF0000 := by decide +kernel
theorem test_encode_E8_truncates : encodeColor ⟨1 / 2, 1 / 2, 1 / 2⟩ = 0x7F7F7F00 := by decide +kernel
theorem test_encode_E11_order : encodeColor ⟨2 / 255, 1 / 255, 0⟩ = 0x01020000 := by decide +kernel
theorem test_encode_E13_below_one : encodeColor ⟨509 / 510, 0, 0⟩ = 0x00FE0000 := by decide +kernel
theorem test_encode_E15_channels : encodeColor ⟨1 / 10, 3 / 10, 7 / 10⟩ = 0x4C19B200 := by decide +kernel
theorem test_encode_E17_clamps : encodeColor ⟨-3 / 10, 3 / 2, 1 / 2⟩ = 0xFF007F00 := by decide +kernel

/-! ### Blend modes (95_test_vectors.md 2.4, and the rules' worked examples) -/

/-- R163: 1/2 at index 4 and at index 7. -/
theorem test_weighted_example :
    encodeColor (blendWeighted (1 / 2) 4) = 0x00007F00 ∧ encodeColor (blendWeighted (1 / 2) 7) = 0x007F0000 := by
  decide +kernel
/-- R164: 4/5 into red over (0, 0, 1/5). -/
theorem test_uniform_example :
    (blendUniform .r ⟨0, 0, 1 / 5⟩ (4 / 5)).map encodeColor = some 0x00CC3300 := by decide +kernel
/-- R166. -/
theorem test_direct_example : encodeColor (blendDirect 1 (1 / 2) 0) = 0x7FFF0000 := by decide +kernel
/-- B6: the first, second and last word of RAMP in WeightedBicolor. -/
theorem test_B6_ends :
    word testCfg (bindRead testCfg .k0) 0 0 = 0x00001800 ∧ word testCfg (bindRead testCfg .k0) 0 1 = 0x00170000 ∧
      word testCfg (bindRead testCfg .k0) 0 24 = 0x00000000 := by decide +kernel
/-- B11: TRI in Direct, indices 0 and 24. -/
theorem test_B11_ends :
    word testCfg (bindRead testCfg .k5) 5 0 = 0x7C18E000 ∧ word testCfg (bindRead testCfg .k5) 0 24 = 0x6400C800 := by
  decide +kernel
/-- B14 and B12: position 24 is sent first, position 6 at index 18. -/
theorem test_dot_positions :
    word testCfg (bindRead testCfg .k3) 4 0 = 0x0000FF00 ∧ word testCfg (bindRead testCfg .k3) 1 18 = 0x0000FF00 ∧
      word testCfg (bindRead testCfg .k3) 1 17 = 0 := by decide +kernel

/-! ### Events (95_test_vectors.md 2.5) -/

theorem test_keyC_events : keyEvents testCfg .kC = List.replicate 25 (.emit 0x00FF0000) ++ [.sleep 200] := by
  decide +kernel
theorem test_key9_events : keyEvents testCfg .k9 = [.sleep 200] := by decide +kernel
theorem test_key4_shape :
    (emits (keyEvents testCfg .k4)).length = 100 ∧ sleeps (keyEvents testCfg .k4) = [200, 200, 200, 200] := by
  decide +kernel
/-- Frame f of key 6: word i is `(25f + 24 - i) << 16`; the first word of the sixth frame. -/
theorem test_key6_word : (emits (keyEvents testCfg .k6))[125]? = some 0x00950000 := by decide +kernel
theorem test_script_commands :
    scriptCommands [.key .kA, .noneTimes 2, .held .k9 2] = [0x1A, 0x00, 0x00, 0x19, 0x19] := by decide

/-! ### Instructions, one step each -/

/-- P5, edge 2. -/
theorem test_key_A_dispatches :
    shows (fun t => decide (t.phase = .emit ∧ t.act = .turnOff ∧ t.pix = 0 ∧ t.trace = []))
      (step (start [sample (some .kA) false false false])) = true := by decide +kernel
/-- K2: a NoOp key takes the hold. -/
theorem test_key_9_holds :
    shows (fun t => decide (t.phase = .hold ∧ t.tmr = 200 ∧ t.trace = [.sleep 200]))
      (step (start [sample (some .k9) true true false])) = true := by decide +kernel
/-- P5, edge 1: command 0x0A is NOKEY. -/
theorem test_nokey_steps :
    shows (fun t => decide (t.phase = .poll ∧ t.trace = [] ∧ t.inputs = []))
      (step (start [⟨false, 0xA, true, true, false⟩])) = true := by decide +kernel
theorem test_key_6_plays_count :
    shows (fun t => decide (t.act = .playSequence seqCount black .uniformColor .r ∧ t.phase = .emit))
      (exec .key6 (start [])) = true := by decide +kernel
theorem test_act_fillsolid_latches :
    shows (fun t => decide (t.phase = .emit ∧ word testCfg t.act 0 0 = 0x010200FF &&& 0xFFFFFF00))
      (exec (.actFillsolid 2 1 0) (start [])) = true := by decide +kernel
theorem test_act_noop_holds :
    shows (fun t => decide (t.phase = .hold ∧ t.trace = [.sleep 200])) (exec .actNoop (start [])) = true := by
  decide +kernel
/-- P5, edge 3. -/
theorem test_emit_first_word :
    shows (fun t => decide (t.pix = 1 ∧ t.trace = [.emit 0]))
      (step (sending .turnOff 0 0 0 [sample none true false false])) = true := by decide +kernel
/-- P5, edge 6: the sink stalls. -/
theorem test_emit_stall :
    shows (fun t => decide (t.pix = 3 ∧ t.trace = [] ∧ t.phase = .emit))
      (step (sending .turnOff 0 0 3 [sample (some .kC) false true false])) = true := by decide +kernel
/-- P5, edge 29: the last word, then the hold. -/
theorem test_emit_last_word :
    shows (fun t => decide (t.phase = .hold ∧ t.tmr = 200 ∧ t.pix = 0 ∧ t.trace = [.emit 0, .sleep 200]))
      (step (sending .turnOff 0 0 24 [sample none true false false])) = true := by decide +kernel
/-- P4: after frame 0 of cycle 0, (rep, frm) = (0, 1); after frame 1 of cycle 0, (1, 0). -/
theorem test_arrow_first_gap :
    shows (fun t => decide (t.phase = .gap ∧ t.rep = 0 ∧ t.frm = 1 ∧ t.tmr = 200))
      (step (sending arrow 0 0 24 [sample none true false false])) = true := by decide +kernel
theorem test_arrow_next_cycle :
    shows (fun t => decide (t.phase = .gap ∧ t.rep = 1 ∧ t.frm = 0 ∧ t.pix = 0))
      (step (sending arrow 0 1 24 [sample none true false false])) = true := by decide +kernel
theorem test_mode_solidfill :
    shows (fun t => decide (t.trace = [.emit 0x00FF0000]))
      (exec .modeSolidfill (sending (bindRead testCfg .k8) 0 0 0 [sample none true false false])) = true := by
  decide +kernel
/-- B1: RAMP in UniformColor R starts with 0x00180000. -/
theorem test_mode_uniformcolor :
    shows (fun t => decide (t.trace = [.emit 0x00180000]))
      (exec .modeUniformcolor (sending arrow 0 0 0 [sample none true false false])) = true := by decide +kernel
theorem test_mode_weighted_odd :
    shows (fun t => decide (t.trace = [.emit 0x00170000]))
      (exec .modeWeightedbicolor (sending arrow 0 0 1 [sample none true false false])) = true := by decide +kernel
theorem test_mode_direct :
    shows (fun t => decide (t.trace = [.emit 0x7C18E000]))
      (exec .modeDirect (sending (bindRead testCfg .k5) 0 0 0 [sample none true false false])) = true := by decide +kernel
/-- B3: RAMP into green over (1/5, 0, 4/5). -/
theorem test_chan_g :
    shows (fun t => decide (t.trace = [.emit 0x1833CC00]))
      (exec .chanG (sending (.playSequence seqArrow ⟨1 / 5, 0, 4 / 5⟩ .uniformColor .g) 0 0 0
        [sample none true false false])) = true := by decide +kernel
/-- B4: RAMP into blue over red. -/
theorem test_chan_b :
    shows (fun t => decide (t.trace = [.emit 0x00FF1800]))
      (exec .chanB (sending (.playSequence seqArrow ⟨1, 0, 0⟩ .uniformColor .b) 0 0 0
        [sample none true false false])) = true := by decide +kernel
theorem test_chan_r :
    shows (fun t => decide (t.trace = [.emit 0x00180000]))
      (exec .chanR (sending arrow 0 0 0 [sample none true false false])) = true := by decide +kernel
theorem test_colorword_transfer :
    shows (fun t => decide (t.trace = [.emit 0x4C19B200] ∧ t.pix = 8))
      (exec (.colorword 0x4C 0x19 0xB2) (sending .turnOff 0 0 7 [sample none true false false])) = true := by
  decide +kernel
/-- P5, edges 30 and 230. -/
theorem test_hold_counts :
    shows (fun t => decide (t.phase = .hold ∧ t.tmr = 199))
      (step (waiting .hold .turnOff 0 200 [sample (some .kC) false true false])) = true := by decide +kernel
theorem test_hold_ends :
    shows (fun t => decide (t.phase = .poll ∧ t.tmr = 0))
      (step (waiting .hold .turnOff 0 0 [sample (some .kC) false true false])) = true := by decide +kernel
/-- X1: reset at pix = 7. -/
theorem test_reset_midframe :
    shows (fun t => decide (t.phase = .poll ∧ t.act = .noOp ∧ t.pix = 0 ∧ t.trace = []))
      (step (sending (bindRead testCfg .kC) 0 0 7 [sample (some .kC) true true true])) = true := by decide +kernel
theorem test_illFormed_refused :
    nextOf (step { start [sample none true true true] with cfg := shortCfg }) = none := by decide +kernel
theorem test_placed_key_runs :
    shows (fun t => decide (t.phase = .emit ∧ t.act = .turnOff)) (step (State.reset.withFetchWord 8 0x1A)) = true := by
  decide +kernel
theorem test_placed_word_runs :
    shows (fun t => decide (t.trace = [.emit 0x4C19B200])) (step (State.reset.withFetchWord 32 0x4C19B200)) = true := by
  decide +kernel
theorem test_placed_descriptor_runs :
    shows (fun t => decide (t.act = .turnOff ∧ t.phase = .emit)) (step (State.reset.withFetchWord 40 1)) = true := by
  decide +kernel

/-! ### Witnesses: states and operands that meet the hypotheses of the statements, clause by clause at their boundaries -/

/-- The sample of a ready sink and a tick. -/
def free : Input := sample none true true false

theorem witness_DecodeOfEncode :
    (Instr.actPlaysequence 12 .uniformColor .b 255 0 1).wf = true ∧ (Instr.nokey 15).wf = true := by decide

theorem witness_KeyPortValues :
    (0x0F : BitVec 5).getLsbD 4 = false ∧
      (0x1F : BitVec 5).getLsbD 4 = true ∧ (0x1F : BitVec 5).extractLsb' 0 4 = KeyCode.hash.code ∧
      (0x10 : BitVec 5).getLsbD 4 = true ∧ (0x10 : BitVec 5).extractLsb' 0 4 = KeyCode.k0.code := by decide

theorem witness_ReservedWords :
    ((0b1101_11 : BitVec 34).extractLsb' 0 2 = 3 ∧ 13 ≤ ((0b1101_11 : BitVec 34).extractLsb' 2 4).toNat) ∧
      ((0b11_01_1100_11 : BitVec 34).extractLsb' 0 2 = 3 ∧ ((0b11_01_1100_11 : BitVec 34).extractLsb' 2 4).toNat < 13 ∧
        (0b11_01_1100_11 : BitVec 34).extractLsb' 6 2 = 1 ∧ (0b11_01_1100_11 : BitVec 34).extractLsb' 8 2 = 3) ∧
      (1 : Word).extractLsb' 0 8 ≠ 0 := by decide

theorem witness_SequenceWord :
    (⟨⟨255, 255, 65535, .triple⟩, 131071⟩ : SeqEntry).desc.nframes ≤ 255 ∧
      (⟨⟨255, 255, 65535, .triple⟩, 131071⟩ : SeqEntry).desc.repeats ≤ 255 ∧
      (⟨⟨255, 255, 65535, .triple⟩, 131071⟩ : SeqEntry).desc.delayMs ≤ 65535 ∧
      (⟨⟨255, 255, 65535, .triple⟩, 131071⟩ : SeqEntry).base < 2 ^ 17 := by decide

theorem witness_ChannelCode :
    ((-3 / 10 : Intensity) < 0) ∧ (1 < (3 / 2 : Intensity)) ∧ ((0 : Intensity) ≤ 1 ∧ (1 : Intensity) ≤ 1) ∧
      ((0 : Intensity) ≤ 0) := by decide +kernel

theorem witness_ColorWordProperties : (1 / 255 : Intensity) ≤ 2 / 255 ∧ (0x01020300 : Word).extractLsb' 0 8 = 0 := by
  decide +kernel

theorem witness_WellFormedFrames :
    cfgWf testCfg = true ∧ testCfg.seq[(8 : SeqId).toNat]? = some ⟨6, 5, 200, .triple⟩ ∧
      testCfg.frame[(8 : SeqId).toNat]? = some (List.replicate 6 tri) ∧
      (frameRead testCfg 8 5 24).isSome = true ∧ frameRead testCfg 8 6 24 = none ∧ frameRead testCfg 8 5 25 = none := by
  decide +kernel

theorem witness_LinearLayout :
    cfgWf testCfg = true ∧ testCfg.seq[(12 : SeqId).toNat]? = some ⟨1, 1, 200, .scalar⟩ ∧ romAddr testCfg 12 0 24 = 1024 := by
  decide +kernel

theorem witness_Directory :
    cfgWf testCfg = true ∧ testCfg.seq[(12 : SeqId).toNat]? = some ⟨1, 1, 200, .scalar⟩ ∧ romBase testCfg 12 = 1000 := by
  decide +kernel

theorem witness_WordOfEveryMode :
    frameRead testCfg 12 0 (24 - 0) = some (.scalar 0) ∧ frameRead testCfg 12 0 (24 - 24) = some (.scalar (24 / 255)) ∧
      frameRead testCfg 8 0 (24 - 24) = some (.triple 0 (100 / 255) (200 / 255)) := by decide +kernel

theorem witness_PseudoCommands :
    testCfg.seq[seqRed08.toNat]? = some ⟨1, 1, 0, .scalar⟩ ∧ emptyCfg.seq[seqDraw0.toNat]? = some ⟨0, 3, 200, .scalar⟩ := by
  decide +kernel

theorem witness_DegenerateShapes :
    nfr emptyCfg (bindRead emptyCfg .k0) = 0 ∧ nrep testCfg .noOp = 0 ∧
      (start []).phase = .poll ∧ words (start []).cfg (bindRead (start []).cfg .k9) = 0 ∧
      nfr testCfg .turnOff * nrep testCfg .turnOff = 1 ∧ dly testCfg .turnOff = 0 ∧
      cfgWf (waiting .gap arrow 1 0 [free]).cfg = true ∧ (waiting .gap arrow 1 0 [free]).now.rst = false := by
  decide +kernel

theorem witness_Explosion :
    conforms testCfg = true ∧ bindRead testCfg .k8 = .playSequence seqExplosion ⟨1, 0, 0⟩ .solidFill .r := by
  decide +kernel

theorem witness_StepRuns :
    cfgWf testCfg = true ∧ (start [sample (some .kA) false false false]).now.rst = false ∧
      (start [sample (some .kA) false false false]).phase = .poll ∧ Instr.keyA.wf = true ∧
      encode .keyA = ⟨.key, (portCommand (start [sample (some .kA) false false false]).now).toNat⟩ ∧
      (sending arrow 0 0 0 [free]).phase = .emit ∧ (sending arrow 0 0 0 [free]).now.rst = false ∧
      (waiting .gap arrow 1 0 [free]).phase = .gap ∧ (waiting .hold arrow 0 0 [free]).phase = .hold := by decide +kernel

theorem witness_EmitEdge :
    cfgWf (sending arrow 0 0 24 [free]).cfg = true ∧ actionWf testCfg arrow = true ∧
      (sending arrow 0 0 24 [free]).now.rst = false := by decide +kernel

theorem witness_PlacedTableWord :
    cfgWf State.reset.cfg = true ∧ decodeTableWord 8 0x10 = some .key0 ∧
      decodeTableWord 32 0xFFFFFF00 = some (.colorword 255 255 255) ∧ decodeTableWord 40 0b1 = some .actTurnoff := by
  decide +kernel

theorem witness_ResetOverrides :
    cfgWf testCfg = true ∧ (sending arrow 1 1 7 [sample none true true true]).now.rst = true ∧
      (sending arrow 1 1 0 [sample none true true true]).now.rst = true ∧
      ¬((sending arrow 1 1 0 [sample none true true true]).phase = .emit ∧
        (sending arrow 1 1 0 [sample none true true true]).pix ≠ 0) := by decide +kernel

/-- States of every phase that meet the invariant. -/
theorem witness_Inv :
    (start [free]).Inv ∧ (sending arrow 1 1 24 [free]).Inv ∧ (waiting .gap arrow 1 200 [free]).Inv ∧
      (waiting .hold arrow 0 200 [free]).Inv :=
  ⟨by decide +kernel, by decide +kernel, by decide +kernel, by decide +kernel⟩

/-- From each of them a step answers a next state. -/
theorem witness_Inv_steps :
    (∃ t, step (start [free]) = .next t) ∧ (∃ t, step (sending arrow 1 1 24 [free]) = .next t) ∧
      (∃ t, step (waiting .gap arrow 1 200 [free]) = .next t) ∧ (∃ t, step (waiting .hold arrow 0 0 [free]) = .next t) :=
  ⟨of_nextOf (by decide +kernel), of_nextOf (by decide +kernel), of_nextOf (by decide +kernel),
    of_nextOf (by decide +kernel)⟩

theorem witness_IllFormed :
    cfgWf { start [] with cfg := shortCfg }.cfg = false ∧ (start []).phase = .poll ∧
      actionWf (start []).cfg (.playSequence 4 (colorOfCodes 0 0 0) .direct .r) = false := by decide +kernel

theorem witness_NoKey :
    cfgWf (start [free]).cfg = true ∧ (start [free]).now.rst = false ∧ (start [free]).now.keyValid = false := by
  decide +kernel

theorem witness_KeyDispatches :
    (start []).phase = .poll ∧ words (start []).cfg (bindRead (start []).cfg .k9) = 0 ∧
      words (start []).cfg (bindRead (start []).cfg .k5) = 750 := by decide +kernel

theorem witness_KeysNotSeen :
    (sending arrow 0 0 0 [free]).phase ≠ .poll ∧ (waiting .gap arrow 1 0 [free]).phase ≠ .poll ∧
      (waiting .hold arrow 0 0 [free]).phase ≠ .poll := by decide

theorem witness_EachPhase :
    pollKey (sample (some .kA) true true false) = pollKey (sample (some .kA) false false false) ∧
      pollKey ⟨false, 1, true, true, false⟩ = pollKey ⟨false, 2, false, true, false⟩ ∧
      (sample (some .kA) true true false).ready = (sample none true false false).ready ∧
      (sample (some .kA) true true false).tick = (sample none false true false).tick := by decide

theorem witness_Descriptors :
    (start []).phase = .poll ∧ actionWf (start []).cfg (.playSequence 12 (colorOfCodes 0 0 255) .weightedBicolor .reserved) = true ∧
      words emptyCfg (.playSequence 11 (colorOfCodes 0 0 0) .solidFill .r) = 0 ∧
      (sending arrow 0 0 0 [free]).phase ≠ .poll := by decide +kernel

theorem witness_FrameOfKeys :
    (encode .keyA).format = .key ∧ (encode .actNoop).format = .act ∧
      (∃ t, exec .keyA (start []) = .next t) ∧ (∃ t, exec .actNoop (start []) = .next t) ∧
      (∃ t, exec .actNoop (sending arrow 0 0 0 [free]) = .next t) :=
  ⟨rfl, rfl, ⟨_, rfl⟩, ⟨_, rfl⟩, ⟨_, rfl⟩⟩

theorem witness_Colorword :
    (sending arrow 0 0 23 [free]).now.ready = true ∧ (sending arrow 0 0 23 [free]).pix.toNat < 24 ∧
      (sending arrow 0 0 24 [sample none false true false]).now.ready = false ∧
      isLast (sending arrow 1 1 24 [free]) = true ∧
      (isLast (sending arrow 0 0 24 [free]) = false ∧ 0 + 1 < nfr testCfg arrow) ∧
      (isLast (sending arrow 0 1 24 [free]) = false ∧ nfr testCfg arrow ≤ 1 + 1) ∧
      24 < (sending arrow 0 0 25 [free]).pix.toNat := by decide +kernel

theorem witness_ModeAndChannelEdges :
    (sending arrow 0 0 24 [free]).now.ready = true ∧ actionColor arrow = some black ∧ actionChan arrow = .r ∧
      actionEntry testCfg arrow 0 24 = some (.scalar 0) ∧ actionEntry testCfg arrow 1 0 = some (.scalar 0) ∧
      actionChan (.playSequence seqArrow black .uniformColor .g) = .g ∧
      actionChan (bindRead testCfg .k3) = .b ∧
      actionEntry testCfg (bindRead testCfg .k5) 0 24 = some (.triple 0 (100 / 255) (200 / 255)) := by decide +kernel

theorem witness_EveryEmitRow :
    (offeredWord .modeUniformcolor (sending arrow 0 0 0 [free])).isSome = true ∧ actionChan arrow ≠ .reserved ∧
      (offeredWord (.colorword 1 2 3) (start [])).isSome = true ∧ (start []).phase ≠ .emit ∧
      (offeredWord .modeDirect (sending .noOp 0 0 24 [free])).isSome = true ∧
      24 < (sending arrow 0 0 25 [free]).pix.toNat := by decide +kernel

theorem witness_FrameOfEmitEdges :
    (∃ w, offeredWord .chanR (sending arrow 0 0 23 [free]) = some w) ∧
      (∃ t, exec .chanR (sending arrow 0 0 23 [free]) = .next t) ∧ (∃ t, exec .chanR (sending arrow 0 0 24 [free]) = .next t) ∧
      (∃ t, exec .chanR (sending arrow 0 0 24 [sample none false true false]) = .next t) ∧
      (∃ t, exec .chanR (start []) = .next t) :=
  ⟨⟨_, rfl⟩, ⟨_, rfl⟩, ⟨_, rfl⟩, ⟨_, rfl⟩, ⟨_, rfl⟩⟩

theorem witness_ReservedChannel :
    (sending (.playSequence 7 black .uniformColor .reserved) 0 0 0 [free]).phase = .emit ∧
      actionChan (.playSequence 7 black .uniformColor .reserved) = .reserved := by decide

theorem witness_StalledOffer :
    (sending arrow 0 0 24 [sample none false true false]).Inv ∧
      (sending arrow 0 0 24 [sample none false true false]).now.rst = false ∧
      (sending arrow 0 0 24 [sample none false true false]).now.ready = false := by decide +kernel

theorem witness_WaitingSteps :
    cfgWf testCfg = true ∧ (waiting .gap arrow 1 0 [free]).tmr = 0 ∧ (waiting .hold arrow 0 1 [free]).tmr ≠ 0 ∧
      (waiting .hold arrow 0 1 [free]).now.tick = true ∧
      (waiting .gap arrow 1 200 [sample none true false false]).now.tick = false := by decide +kernel

/-- `n` edges of given samples without reset. -/
theorem noReset_replicate (s : State) (x : Input) (n : Nat) (hx : x.rst = false) (hs : s.inputs = List.replicate n x) :
    s.NoReset n := by
  intro i hi
  simp [State.inputAt, hs, hi, hx]

/-- A tick, two edges without, a tick, an edge without: five edges. -/
def sparseTicks : List Input :=
  [free, sample none true false false, sample none true false false, free, sample none true false false]

/-- A hold of 2 ms whose ticks come three edges apart, and a gap that ends at once. -/
theorem witness_WaitEnds :
    cfgWf testCfg = true ∧ (waiting .hold arrow 0 2 sparseTicks).NoReset 5 ∧
      (∀ m, m < 4 → (waiting .hold arrow 0 2 sparseTicks).highEdges Input.tick m <
        (waiting .hold arrow 0 2 sparseTicks).tmr.toNat) ∧
      (waiting .hold arrow 0 2 sparseTicks).highEdges Input.tick 4 = (waiting .hold arrow 0 2 sparseTicks).tmr.toNat ∧
      (waiting .gap arrow 1 0 [free]).NoReset 1 ∧
      (waiting .gap arrow 1 0 [free]).highEdges Input.tick 0 = (waiting .gap arrow 1 0 [free]).tmr.toNat :=
  ⟨by decide +kernel, by unfold State.NoReset; decide, by decide, by decide, noReset_replicate _ free 1 rfl rfl, rfl⟩

theorem witness_Stuck :
    (sending arrow 0 0 24 (List.replicate 3 (sample none false false false))).Inv ∧
      (sending arrow 0 0 24 (List.replicate 3 (sample none false false false))).NoReset 3 ∧
      (∀ i, i < 3 → ((sending arrow 0 0 24 (List.replicate 3 (sample none false false false))).inputAt i).ready = false) ∧
      (waiting .hold arrow 0 1 (List.replicate 3 (sample none false false false))).Inv ∧
      (waiting .hold arrow 0 1 (List.replicate 3 (sample none false false false))).tmr ≠ 0 :=
  ⟨by decide +kernel, noReset_replicate _ (sample none false false false) _ rfl rfl, by decide, by decide +kernel, by decide⟩

/-- An idle state that a key turns to Debounce, and a hold that ends. -/
theorem witness_Debounce :
    dstate (start [sample (some .kA) false false false]) = .idle ∧
      pollKey (start [sample (some .kA) false false false]).now = some .kA ∧
      dstate (waiting .hold arrow 0 0 [free]) = .debounce ∧
      (∃ t, step (start [sample (some .kA) false false false]) = .next t ∧ t.act ≠ .noOp) :=
  ⟨rfl, rfl, rfl, by
    obtain ⟨t, ht⟩ : ∃ t, step (start [sample (some .kA) false false false]) = .next t := of_nextOf (by decide +kernel)
    refine ⟨t, ht, ?_⟩
    have h : (nextOf (step (start [sample (some .kA) false false false]))).all (fun u => decide (u.act ≠ .noOp)) = true := by
      decide +kernel
    simpa [ht, nextOf] using h⟩

theorem witness_WholeFrames :
    (start [free]).WholeFrames ∧ (waiting .gap arrow 1 200 [free]).WholeFrames ∧ (start [free]).Inv ∧
      (start [free]).now.rst = false :=
  ⟨⟨0, rfl, rfl⟩, ⟨0, rfl, rfl⟩, by decide +kernel, by decide⟩

theorem witness_CountersNeverWrap :
    (sending arrow 0 1 24 [free]).Inv ∧ (sending arrow 0 1 24 [free]).now.rst = false ∧
      (sending arrow 0 1 24 [free]).now.ready = true ∧ (sending arrow 0 1 24 [free]).pix.toNat = 24 ∧
      (sending arrow 0 1 23 [free]).Inv ∧
      shows (fun t => decide (t.phase = .gap)) (step (sending arrow 0 1 24 [free])) = true := by decide +kernel

theorem witness_HeldKey :
    (waiting .hold arrow 0 0 [sample (some .k4) false false false, sample (some .k4) false false false]).Inv ∧
      (waiting .hold arrow 0 0 [sample (some .k4) false false false, sample (some .k4) false false false]).NoReset 2 ∧
      pollKey ((waiting .hold arrow 0 0
        [sample (some .k4) false false false, sample (some .k4) false false false]).inputAt 1) = some .k4 :=
  ⟨by decide +kernel, noReset_replicate _ (sample (some .k4) false false false) _ rfl rfl, by decide⟩

/-- One stalled edge, then a sink ready for 25. -/
def stalledOnce : List Input := sample none false true false :: List.replicate 25 free

theorem witness_Display :
    (sending arrow 0 0 0 stalledOnce).Inv ∧ (sending arrow 0 0 0 stalledOnce).NoReset 26 ∧
      (sending arrow 0 0 0 stalledOnce).highEdges Input.ready 25 = 24 ∧
      (sending arrow 0 0 0 stalledOnce).highEdges Input.ready 26 = 25 ∧
      (∀ m, m < 26 → (sending arrow 0 0 0 stalledOnce).highEdges Input.ready m < 25) :=
  ⟨by decide +kernel, by unfold State.NoReset; decide +kernel, by decide +kernel, by decide +kernel, by decide +kernel⟩

/-- The samples of a user who presses `'4'` once and of a ready sink with a tick at every edge are fair. -/
theorem witness_Fair :
    Fair (fun i => if i = 0 then sample (some .k4) true true false else free) ∧
      pollKey (sample (some .k4) true true false) = some .k4 := by
  refine ⟨⟨?_, fun i => ⟨i, le_refl i, ?_⟩, fun i => ⟨i, le_refl i, ?_⟩⟩, by decide⟩
  · intro i
    by_cases h : i = 0 <;> simp [h, sample, free]
  · by_cases h : i = 0 <;> simp [h, sample, free]
  · by_cases h : i = 0 <;> simp [h, sample, free]

theorem witness_Play :
    (sending arrow 0 0 0 []).Inv ∧ (sending arrow 0 0 0 []).phase = .emit ∧ (start []).Inv ∧ (start []).phase = .poll := by
  decide +kernel

/-- Two runs of one configuration that saw the same answers, one of them with one more edge in HOLD. -/
theorem witness_Runs :
    (start [free]).Inv ∧ (start [free]).NoReset 1 ∧ (∃ t, runSteps 1 (start [free]) = .next t ∧ t.phase = .poll) ∧
      pollAnswers 1 (start [free]) = [none] ∧ pollAnswers 1 (start [sample none false false false]) = [none] :=
  ⟨by decide +kernel, noReset_replicate _ free _ rfl rfl, by
    obtain ⟨t, ht⟩ : ∃ t, runSteps 1 (start [free]) = .next t := of_nextOf (by decide +kernel)
    refine ⟨t, ht, ?_⟩
    have h : (nextOf (runSteps 1 (start [free]))).all (fun u => decide (u.phase = .poll)) = true := by decide +kernel
    simpa [ht, nextOf] using h, by decide +kernel, by decide +kernel⟩

end Sys2Proof.Tests
end

section
/-! SUPPORT. One edge said once: an inductive of everything that a step which answers a next state can have done, and
what every edge leaves unchanged. -/

namespace Sys2Proof.Machine

/-! ### Everything that one edge can do -/

/-- What a rising edge from `s` can have done, with the condition under which it does it (R201, R202, R174 to R176, R207,
R300). `edge_of_step` ties it to the step. -/
inductive Edge (s : State) : State → Prop
  | reset (hr : s.now.rst = true) : Edge s (resetEdge s).consume
  | noKey (hr : s.now.rst = false) (hp : s.phase = .poll) (hk : pollKey s.now = none) : Edge s s.consume
  | key (hr : s.now.rst = false) (hp : s.phase = .poll) (k : KeyCode) (hk : pollKey s.now = some k) :
      Edge s (dispatch (bindRead s.cfg k) s).consume
  | stall (hr : s.now.rst = false) (hp : s.phase = .emit) (hx : s.pix.toNat ≤ lastPix) (hs : s.now.ready = false) :
      Edge s s.consume
  | send (hr : s.now.rst = false) (hp : s.phase = .emit) (hx : s.pix.toNat ≤ lastPix) (hs : s.now.ready = true) :
      Edge s (accept (word s.cfg s.act s.frm.toNat s.pix.toNat) s).consume
  | gap (hr : s.now.rst = false) (hp : s.phase = .gap) : Edge s (gapEdge s).consume
  | hold (hr : s.now.rst = false) (hp : s.phase = .hold) : Edge s (holdEdge s).consume

/-- A step answers a next state only under a well-formed configuration (R272). -/
theorem cfgWf_of_step {s t : State} (h : step s = .next t) : cfgWf s.cfg = true := by
  cases hw : cfgWf s.cfg with
  | true => rfl
  | false => simp [step, hw] at h

theorem endEdge_eq_next {o : Host.Outcome State Fault Refusal} {t : State} (h : endEdge o = .next t) :
    ∃ u, o = .next u ∧ t = u.consume := by
  cases o with
  | next u => exact ⟨u, rfl, by simpa [endEdge] using h.symm⟩
  | fault _ => simp [endEdge] at h
  | refused _ => simp [endEdge] at h

/-- In EMIT the latched Action's mode row is the edge that offers `word(act, frm, pix)`, unless it is refused for the
reserved channel (R168, R91(e)). -/
theorem exec_modeRow_emit {s : State} (hs : s.phase = .emit) :
    exec (modeRow (actionMode s.act)) s = .refused .reservedChannel ∨
      exec (modeRow (actionMode s.act)) s = emitEdge (word s.cfg s.act s.frm.toNat s.pix.toNat) s := by
  by_cases hc : actionMode s.act = .uniformColor ∧ actionChan s.act = .reserved
  · exact .inl (by simp [hc.1, hc.2, modeRow, exec, execModeUniformcolor, hs])
  · exact .inr (exec_modeRow s.act hs rfl (fun hm hr => hc ⟨hm, hr⟩))

/-- A step that answers a next state is one of the edges. -/
theorem edge_of_step {s t : State} (h : step s = .next t) : Edge s t := by
  obtain ⟨hr, hs⟩ | ⟨hr, hp, hs⟩ | ⟨hr, hp, hs⟩ | ⟨hr, hp, hs⟩ | ⟨hr, hp, hs⟩ := step_cases (cfgWf_of_step h) <;>
    rw [hs] at h
  · cases h
    exact .reset hr
  · obtain ⟨u, hu, rfl⟩ := endEdge_eq_next h
    rw [exec_portCommand] at hu
    cases hk : pollKey s.now with
    | none =>
      simp only [hk] at hu
      cases hu
      exact .noKey hr hp hk
    | some k =>
      simp only [hk, pressKey_poll hp] at hu
      cases hu
      exact .key hr hp k hk
  · obtain ⟨u, hu, rfl⟩ := endEdge_eq_next h
    obtain he | he := exec_modeRow_emit hp <;> rw [he] at hu
    · cases hu
    · obtain ⟨hn, -⟩ | ⟨-, -, he⟩ | ⟨-, hx, hy, he⟩ | ⟨-, hx, hy, he⟩ := emitEdge_cases _ s
      · exact absurd hp hn
      · rw [he] at hu
        cases hu
      · rw [he] at hu
        cases hu
        exact .send hr hp hx hy
      · rw [he] at hu
        cases hu
        exact .stall hr hp hx hy
  · cases h
    exact .gap hr hp
  · cases h
    exact .hold hr hp

/-! ### What every edge leaves unchanged -/

/-- What an edge of a waiting phase leaves unchanged. -/
theorem waitEdge_frame (p : Phase) (s : State) :
    (waitEdge p s).act = s.act ∧ (waitEdge p s).rep = s.rep ∧ (waitEdge p s).frm = s.frm ∧ (waitEdge p s).pix = s.pix ∧
      (waitEdge p s).trace = s.trace ∧ (waitEdge p s).disp = s.disp ∧ (waitEdge p s).cfg = s.cfg ∧
      (waitEdge p s).inputs = s.inputs ∧ (waitEdge p s).edge = s.edge := by
  obtain ⟨_, h⟩ | ⟨_, _, h⟩ | ⟨_, _, h⟩ := waitEdge_cases p s <;> simp [h]

/-- Every edge keeps the configuration and consumes its sample (R54, R35). -/
theorem Edge.frame {s t : State} (h : Edge s t) :
    t.cfg = s.cfg ∧ t.inputs = s.inputs.tail ∧ t.edge = s.edge + 1 := by
  cases h with
  | reset | noKey | stall => simp
  | key => simp [dispatch_frame]
  | send => simp [accept_frame]
  | gap => simp [gapEdge, waitEdge_frame]
  | hold => simp [holdEdge, waitEdge_frame]

end Sys2Proof.Machine
end

section
/-! SUPPORT. Every step keeps the invariant of R37: one lemma for each operation that writes the position, then the edge. -/

namespace Sys2Proof.Machine

/-! ### Sizes of a well-formed Action -/

/-- In a well-formed configuration the counters of every sequence fit their registers (R146(b)). -/
theorem seqCounters_le {c : Cfg} (hw : cfgWf c = true) {q : Nat} {d : SeqDesc} (hq : c.seq[q]? = some d) :
    d.nframes ≤ 255 ∧ d.repeats ≤ 255 ∧ d.delayMs ≤ 65535 := by
  obtain ⟨hlt, hd⟩ := Vector.getElem?_eq_some_iff.mp hq
  have hz : (c.seq.toList.zip c.frame.toList)[q]? = some (d, c.frame[q]) := by
    rw [List.getElem?_zip_eq_some]
    simp [hlt, hd]
  simp only [cfgWf, Bool.and_eq_true, List.all_eq_true] at hw
  have hs := hw.1 _ (List.mem_of_getElem? hz)
  simp only [seqWf, Bool.and_eq_true, decide_eq_true_eq] at hs
  obtain ⟨⟨⟨⟨hn, hr⟩, hd⟩, -⟩, -⟩ := hs
  exact ⟨hn, hr, hd⟩

/-- A well-formed PlaySequence names a sequence (R146(c)). -/
theorem seq_of_actionWf {c : Cfg} {q : SeqId} {col : Color} {mode : BlendMode} {chan : Chan}
    (h : actionWf c (.playSequence q col mode chan) = true) : ∃ d, c.seq[q.toNat]? = some d := by
  cases hq : c.seq[q.toNat]? with
  | some d => exact ⟨d, rfl⟩
  | none => simp [actionWf, hq] at h

/-- The counters of a well-formed Action fit their registers (R24, R26, R182). -/
theorem actionCounters_le {c : Cfg} {a : Action} (hw : cfgWf c = true) (ha : actionWf c a = true) :
    nfr c a ≤ 255 ∧ nrep c a ≤ 255 ∧ dly c a ≤ 65535 := by
  cases a with
  | noOp | turnOff | fillSolid => simp [nfr, nrep, dly]
  | playSequence q col mode chan =>
    obtain ⟨d, hd⟩ := seq_of_actionWf ha
    simpa [nfr, nrep, dly, seqDesc_named hd] using seqCounters_le hw hd

/-- An Action emits words exactly when it has a frame and a cycle (R27). -/
theorem words_pos_iff (c : Cfg) (a : Action) : 0 < words c a ↔ 0 < nfr c a ∧ 0 < nrep c a := by
  simp [words, numPix, Nat.pos_iff_ne_zero]

/-- Counting a register up by one does not wrap below its top. -/
theorem toNat_add_one {w : Nat} {x : BitVec w} (h : x.toNat + 1 < 2 ^ w) : (x + 1).toNat = x.toNat + 1 := by
  have h1 : 1 < 2 ^ w := Nat.lt_of_le_of_lt (Nat.le_add_left 1 _) h
  simp [BitVec.toNat_add, Nat.mod_eq_of_lt h1, Nat.mod_eq_of_lt h]

theorem ne_zero_of_toNat_eq_succ {w n : Nat} {x : BitVec w} (h : x.toNat = n + 1) : x ≠ 0 := fun h0 => by
  simp [h0] at h

theorem isLast_iff (s : State) :
    isLast s = true ↔ s.rep.toNat + 1 = nrep s.cfg s.act ∧ s.frm.toNat + 1 = nfr s.cfg s.act := by
  simp [isLast]

/-- After a frame that is not the Action's last, the next position: the next frame of the cycle, or the first frame of a
next cycle, each inside the Action, and the counter that counts up does not wrap (R175, R182). -/
theorem nextFrame_cases {s : State} (h : s.Inv) (hp : s.phase = .emit) (hl : isLast s = false) :
    (s.frm.toNat + 1 < nfr s.cfg s.act ∧ (s.frm + 1).toNat = s.frm.toNat + 1 ∧
      nextFrame s = { s with pix := 0, frm := s.frm + 1 }) ∨
    (s.frm.toNat + 1 = nfr s.cfg s.act ∧ s.rep.toNat + 1 < nrep s.cfg s.act ∧ (s.rep + 1).toNat = s.rep.toNat + 1 ∧
      nextFrame s = { s with pix := 0, frm := 0, rep := s.rep + 1 }) := by
  obtain ⟨hcfg, hact, -, hplay, -⟩ := h
  obtain ⟨-, hr, hf⟩ := hplay (.inl hp)
  obtain ⟨hnf, hnr, -⟩ := actionCounters_le hcfg hact
  have hnl : ¬(s.rep.toNat + 1 = nrep s.cfg s.act ∧ s.frm.toNat + 1 = nfr s.cfg s.act) :=
    (isLast_iff s).not.mp (by simp [hl])
  by_cases hn : s.frm.toNat + 1 < nfr s.cfg s.act
  · exact .inl ⟨hn, toNat_add_one (by omega), nextFrame_sameCycle hn⟩
  · exact .inr ⟨by omega, by omega, toNat_add_one (by omega), nextFrame_nextCycle hn⟩

/-! ### The operations keep the invariant -/

theorem resetEdge_inv {s : State} (h : s.Inv) : (resetEdge s).Inv := by
  obtain ⟨hcfg, -⟩ := h
  simp [State.Inv, hcfg, actionWf]

theorem enterHold_inv {s : State} (hcfg : cfgWf s.cfg = true) (hact : actionWf s.cfg s.act = true) :
    (enterHold s).Inv := by
  simp [State.Inv, hcfg, hact]

/-- The dispatch of a well-formed Action keeps the invariant: it holds at once, or stands at its first word. -/
theorem dispatch_inv {a : Action} {s : State} (h : s.Inv) (ha : actionWf s.cfg a = true) : (dispatch a s).Inv := by
  obtain ⟨hcfg, -⟩ := h
  by_cases hz : words s.cfg a = 0
  · rw [dispatch_empty hz]
    exact enterHold_inv hcfg ha
  · have hpos := Nat.pos_of_ne_zero hz
    obtain ⟨hf, hr⟩ := (words_pos_iff _ _).mp hpos
    rw [dispatch_plays hz]
    simp [State.Inv, hcfg, ha, hpos, hf, hr]

/-- Entering the gap before the next frame keeps the invariant: the next position lies inside the Action and is not its
first. -/
theorem enterGap_nextFrame_inv {s : State} (h : s.Inv) (hp : s.phase = .emit) (hl : isLast s = false) :
    (enterGap (nextFrame s)).Inv := by
  have hnext := nextFrame_cases h hp hl
  obtain ⟨hcfg, hact, -, hplay, -⟩ := h
  obtain ⟨hw, hr, hf⟩ := hplay (.inl hp)
  obtain ⟨hn, hs, he⟩ | ⟨-, hn, hs, he⟩ := hnext <;> rw [he]
  · exact ⟨hcfg, hact, Nat.zero_le _, fun _ => ⟨hw, hr, hs.trans_lt hn⟩,
      fun _ => ⟨rfl, fun h0 => ne_zero_of_toNat_eq_succ hs h0.2⟩, by simp, by simp⟩
  · exact ⟨hcfg, hact, Nat.zero_le _, fun _ => ⟨hw, hs.trans_lt hn, Nat.zero_lt_of_lt hf⟩,
      fun _ => ⟨rfl, fun h0 => ne_zero_of_toNat_eq_succ hs h0.1⟩, by simp, by simp⟩

/-- The acceptance of a word keeps the invariant (R174, R175). -/
theorem accept_inv {w : Word} {s : State} (h : s.Inv) (hp : s.phase = .emit) : (accept w s).Inv := by
  obtain ⟨hx, he⟩ | ⟨-, -, he⟩ | ⟨-, hl, he⟩ := accept_cases w s <;> rw [he]
  · obtain ⟨hcfg, hact, -, hplay, -⟩ := h
    have hs : (s.pix + 1).toNat = s.pix.toNat + 1 := toNat_add_one (by unfold lastPix at hx; omega)
    simp only [State.Inv, hs]
    simp [hcfg, hact, hp, hplay (.inl hp), hx]
  · obtain ⟨hcfg, hact, -⟩ := h
    exact enterHold_inv hcfg hact
  · exact enterGap_nextFrame_inv (s := { s with trace := _, disp := _ }) h hp hl

/-- A tick counted outside POLL keeps the invariant: only POLL says something of the timer. -/
theorem tick_inv {s : State} (h : s.Inv) (hp : s.phase ≠ .poll) : ({ s with tmr := s.tmr - 1 } : State).Inv := by
  obtain ⟨hcfg, hact, hpix, hplay, hgap, hidle, -⟩ := h
  exact ⟨hcfg, hact, hpix, hplay, hgap, hidle, fun h => absurd h hp⟩

/-- An edge of GAP keeps the invariant (R176). -/
theorem gapEdge_inv {s : State} (h : s.Inv) (hp : s.phase = .gap) : (gapEdge s).Inv := by
  unfold gapEdge
  obtain ⟨-, he⟩ | ⟨-, -, he⟩ | ⟨-, -, he⟩ := waitEdge_cases .emit s <;> rw [he]
  · obtain ⟨hcfg, hact, hpix, hplay, -⟩ := h
    exact ⟨hcfg, hact, hpix, fun _ => hplay (.inr hp), by simp, by simp, by simp⟩
  · exact tick_inv h (by simp [hp])
  · exact h

/-- An edge of HOLD keeps the invariant (R207). -/
theorem holdEdge_inv {s : State} (h : s.Inv) (hp : s.phase = .hold) : (holdEdge s).Inv := by
  unfold holdEdge
  obtain ⟨ht, he⟩ | ⟨-, -, he⟩ | ⟨-, -, he⟩ := waitEdge_cases .poll s <;> rw [he]
  · obtain ⟨hcfg, hact, hpix, -, -, hidle, -⟩ := h
    exact ⟨hcfg, hact, hpix, by simp, by simp, fun _ => hidle (.inr hp), fun _ => ht⟩
  · exact tick_inv h (by simp [hp])
  · exact h

theorem consume_inv {s : State} (h : s.Inv) : s.consume.Inv := h

/-- Every edge keeps the invariant (R37). -/
theorem Edge.inv {s t : State} (h : Edge s t) (hi : s.Inv) : t.Inv := by
  cases h with
  | reset => exact consume_inv (resetEdge_inv hi)
  | noKey | stall => exact consume_inv hi
  | key _ _ k => exact consume_inv (dispatch_inv hi (actionWf_bindRead hi.1 k))
  | send _ hp => exact consume_inv (accept_inv hi hp)
  | gap _ hp => exact consume_inv (gapEdge_inv hi hp)
  | hold _ hp => exact consume_inv (holdEdge_inv hi hp)

end Sys2Proof.Machine
end

section
/-! SUPPORT. The events an Action still owes at a position of its play, and the law that every edge without reset keeps:
the trace with what is owed grows by exactly what the poll answer adds (R228). -/

namespace Sys2Proof.Machine

/-! ### The rest of an Action's events, from a position on -/

/-- A frame of `events(a)` with the wait after it (R160, R169). -/
def frameBlock (c : Cfg) (a : Action) (cycle f : Nat) : List Event :=
  frameEvents c a f ++ (if cycle + 1 = nrep c a ∧ f + 1 = nfr c a then [] else [.sleep (dly c a)])

/-- The frames of a cycle from frame `f` on. -/
def framesFrom (c : Cfg) (a : Action) (cycle f : Nat) : List Event :=
  (List.range' f (nfr c a - f)).flatMap (frameBlock c a cycle)

/-- The cycles of `events(a)` from one on. -/
def cyclesFrom (c : Cfg) (a : Action) (cycle : Nat) : List Event :=
  (List.range' cycle (nrep c a - cycle)).flatMap (fun y => framesFrom c a y 0)

/-- What is left of `events(a)` when word `i` of frame `f` in a cycle comes next. -/
def playFrom (c : Cfg) (a : Action) (cycle f i : Nat) : List Event :=
  (frameBlock c a cycle f).drop i ++ framesFrom c a cycle (f + 1) ++ cyclesFrom c a (cycle + 1)

theorem events_eq_cyclesFrom (c : Cfg) (a : Action) : events c a = cyclesFrom c a 0 := by
  simp only [events, cyclesFrom, framesFrom, List.range_eq_range', Nat.sub_zero]
  rfl

theorem range'_of_lt {i n : Nat} (h : i < n) : List.range' i (n - i) = i :: List.range' (i + 1) (n - (i + 1)) :=
  List.range'_eq_cons_iff.mpr ⟨rfl, Nat.sub_pos_of_lt h, by rw [Nat.sub_sub]⟩

theorem framesFrom_of_lt {c : Cfg} {a : Action} {f : Nat} (cycle : Nat) (h : f < nfr c a) :
    framesFrom c a cycle f = frameBlock c a cycle f ++ framesFrom c a cycle (f + 1) := by
  simp [framesFrom, range'_of_lt h]

theorem framesFrom_end {c : Cfg} {a : Action} {f : Nat} (cycle : Nat) (h : nfr c a ≤ f) :
    framesFrom c a cycle f = [] := by
  simp [framesFrom, Nat.sub_eq_zero_of_le h]

theorem cyclesFrom_of_lt {c : Cfg} {a : Action} {cycle : Nat} (h : cycle < nrep c a) (hf : 0 < nfr c a) :
    cyclesFrom c a cycle = playFrom c a cycle 0 0 := by
  simp [cyclesFrom, range'_of_lt h, playFrom, framesFrom_of_lt cycle hf]

theorem cyclesFrom_end {c : Cfg} {a : Action} {cycle : Nat} (h : nrep c a ≤ cycle) : cyclesFrom c a cycle = [] := by
  simp [cyclesFrom, Nat.sub_eq_zero_of_le h]

theorem events_eq_playFrom {c : Cfg} {a : Action} (h : 0 < words c a) : events c a = playFrom c a 0 0 0 := by
  obtain ⟨hf, hr⟩ := (words_pos_iff c a).mp h
  rw [events_eq_cyclesFrom, cyclesFrom_of_lt hr hf]

theorem events_empty {c : Cfg} {a : Action} (h : words c a = 0) : events c a = [] := by
  have h0 : nfr c a = 0 ∨ nrep c a = 0 := by simpa [words, numPix] using h
  obtain hf | hr := h0
  · simp [events, hf]
  · simp [events, hr]

theorem frameEvents_length (c : Cfg) (a : Action) (f : Nat) : (frameEvents c a f).length = numPix := by
  simp [frameEvents]

/-- The word at the position comes first. -/
theorem playFrom_word (c : Cfg) (a : Action) (cycle f : Nat) {i : Nat} (h : i ≤ lastPix) :
    playFrom c a cycle f i = .emit (word c a f i) :: playFrom c a cycle f (i + 1) := by
  have hi : i < (frameEvents c a f).length := by
    rw [frameEvents_length]
    exact Nat.lt_succ_of_le h
  have hw : (frameEvents c a f)[i] = .emit (word c a f i) := by simp [frameEvents]
  simp only [playFrom, frameBlock]
  rw [List.drop_append_of_le_length hi.le, List.drop_append_of_le_length hi, List.drop_eq_getElem_cons hi, hw]
  rfl

/-- After a frame's last word: its wait, then the frames and cycles after it. -/
theorem playFrom_frameEnd (c : Cfg) (a : Action) (cycle f : Nat) :
    playFrom c a cycle f numPix =
      (if cycle + 1 = nrep c a ∧ f + 1 = nfr c a then [] else [.sleep (dly c a)]) ++
        framesFrom c a cycle (f + 1) ++ cyclesFrom c a (cycle + 1) := by
  rw [playFrom, frameBlock, ← frameEvents_length c a f, List.drop_left]

/-- Nothing is left after the Action's last word (R170). -/
theorem playFrom_actionEnd {c : Cfg} {a : Action} {cycle f : Nat} (hr : cycle + 1 = nrep c a) (hf : f + 1 = nfr c a) :
    playFrom c a cycle f numPix = [] := by
  rw [playFrom_frameEnd, if_pos ⟨hr, hf⟩, framesFrom_end _ hf.ge, cyclesFrom_end hr.ge]
  rfl

/-- The wait before the next frame of the cycle (R169). -/
theorem playFrom_nextFrame {c : Cfg} {a : Action} (cycle : Nat) {f : Nat} (hf : f + 1 < nfr c a) :
    playFrom c a cycle f numPix = .sleep (dly c a) :: playFrom c a cycle (f + 1) 0 := by
  rw [playFrom_frameEnd, if_neg (fun h => hf.ne h.2), framesFrom_of_lt cycle hf]
  rfl

/-- The wait before the first frame of the next cycle (R169). -/
theorem playFrom_nextCycle {c : Cfg} {a : Action} {cycle f : Nat} (hr : cycle + 1 < nrep c a) (hf : f + 1 = nfr c a) :
    playFrom c a cycle f numPix = .sleep (dly c a) :: playFrom c a (cycle + 1) 0 0 := by
  rw [playFrom_frameEnd, if_neg (fun h => hr.ne h.1), framesFrom_end _ hf.ge,
    cyclesFrom_of_lt hr (hf ▸ Nat.succ_pos f)]
  rfl

/-! ### What a state owes -/

/-- What the block adds to the trace before it next stands in HOLD or POLL, if it is not reset: the rest of the latched
Action's events and the wait of the hold; nothing in HOLD and POLL themselves. -/
def owed (s : State) : List Event :=
  match s.phase with
  | .emit | .gap => playFrom s.cfg s.act s.rep.toNat s.frm.toNat s.pix.toNat ++ [.sleep debounceMs]
  | .poll | .hold => []

theorem owed_playing {s : State} (h : s.phase = .emit ∨ s.phase = .gap) :
    owed s = playFrom s.cfg s.act s.rep.toNat s.frm.toNat s.pix.toNat ++ [.sleep debounceMs] := by
  obtain h | h := h <;> simp [owed, h]

theorem owed_idle {s : State} (h : s.phase = .poll ∨ s.phase = .hold) : owed s = [] := by
  obtain h | h := h <;> simp [owed, h]

@[simp] theorem owed_consume (s : State) : owed s.consume = owed s := rfl

@[simp] theorem owed_enterHold (s : State) : owed (enterHold s) = [] := rfl

/-- The trace with what is still owed: the trace as it stands when the handling of the key is over. -/
def settledTrace (s : State) : List Event := s.trace ++ owed s

@[simp] theorem settledTrace_consume (s : State) : settledTrace s.consume = settledTrace s := rfl

/-- In POLL and HOLD nothing is owed. -/
theorem settledTrace_idle {s : State} (h : s.phase = .poll ∨ s.phase = .hold) : settledTrace s = s.trace := by
  simp [settledTrace, owed_idle h]

/-- A dispatch owes the Action's events and the wait of the hold (R202, R228). -/
theorem settledTrace_dispatch (a : Action) (s : State) :
    settledTrace (dispatch a s) = s.trace ++ (events s.cfg a ++ [.sleep debounceMs]) := by
  by_cases hz : words s.cfg a = 0
  · rw [dispatch_empty hz, events_empty hz]
    simp [settledTrace]
  · rw [dispatch_plays hz, events_eq_playFrom (Nat.pos_of_ne_zero hz)]
    rfl

/-- Entering the gap after a frame's last word pays the wait and owes the Action from the next position on (R169, R175). -/
theorem settledTrace_enterGap_nextFrame {s : State} (hi : s.Inv) (hp : s.phase = .emit) (hl : isLast s = false) :
    settledTrace (enterGap (nextFrame s)) =
      s.trace ++ (playFrom s.cfg s.act s.rep.toNat s.frm.toNat numPix ++ [.sleep debounceMs]) := by
  rw [settledTrace, owed_playing (.inr (enterGap_phase _))]
  obtain ⟨hf, hs, he⟩ | ⟨hf, hr, hs, he⟩ := nextFrame_cases hi hp hl
  · rw [he, playFrom_nextFrame _ hf, ← hs]
    simp
  · rw [he, playFrom_nextCycle hr hf, ← hs]
    simp

/-- The acceptance of the word at the position pays the first owed event, and at a frame's end the wait after it
(R174, R175). -/
theorem settledTrace_accept {s : State} (hi : s.Inv) (hp : s.phase = .emit) :
    settledTrace (accept (word s.cfg s.act s.frm.toNat s.pix.toNat) s) = settledTrace s := by
  have ⟨_, _, hpix, _⟩ := hi
  have hword : settledTrace s = s.trace ++ .emit (word s.cfg s.act s.frm.toNat s.pix.toNat) ::
      (playFrom s.cfg s.act s.rep.toNat s.frm.toNat (s.pix.toNat + 1) ++ [.sleep debounceMs]) := by
    rw [settledTrace, owed_playing (.inl hp), playFrom_word _ _ _ _ hpix, List.cons_append]
  have hend : ¬ s.pix.toNat < lastPix → s.pix.toNat + 1 = numPix := fun hx =>
    congrArg (· + 1) (Nat.le_antisymm hpix (Nat.le_of_not_lt hx))
  rw [hword]
  obtain ⟨hx, he⟩ | ⟨hx, hl, he⟩ | ⟨hx, hl, he⟩ := accept_cases (word s.cfg s.act s.frm.toNat s.pix.toNat) s <;> rw [he]
  · have hs : (s.pix + 1).toNat = s.pix.toNat + 1 := toNat_add_one (by unfold lastPix at hx; omega)
    simp only [settledTrace, owed, hp, hs]
    simp
  · obtain ⟨hr, hf⟩ := (isLast_iff s).mp hl
    rw [hend hx, playFrom_actionEnd hr hf]
    simp [settledTrace]
  · rw [hend hx, settledTrace_enterGap_nextFrame]
    · simp
    · exact hi
    · exact hp
    · exact hl

/-- Waiting in GAP pays nothing: the wait was entered in the trace when it began (R169, R176). -/
theorem settledTrace_gapEdge {s : State} (hp : s.phase = .gap) : settledTrace (gapEdge s) = settledTrace s := by
  unfold gapEdge
  obtain ⟨-, he⟩ | ⟨-, -, he⟩ | ⟨-, -, he⟩ := waitEdge_cases .emit s <;> simp [he, settledTrace, owed, hp]

/-- Waiting in HOLD pays nothing (R207). -/
theorem settledTrace_holdEdge {s : State} (hp : s.phase = .hold) : settledTrace (holdEdge s) = settledTrace s := by
  unfold holdEdge
  obtain ⟨-, he⟩ | ⟨-, -, he⟩ | ⟨-, -, he⟩ := waitEdge_cases .poll s <;> simp [he, settledTrace, owed, hp]

/-- The answers to the poll that an edge makes: one in POLL, none elsewhere (R201, R228). -/
def edgeAnswers (s : State) : List (Option KeyCode) := if s.phase = .poll then [pollKey s.now] else []

/-- Every edge without reset adds to the settled trace what its poll answer adds, and nothing in the other phases: neither
stalls nor ticks show in it (R64, R228). -/
theorem Edge.settledTrace_eq {s t : State} (h : Edge s t) (hi : s.Inv) (hr : s.now.rst = false) :
    settledTrace t = settledTrace s ++ runEvents s.cfg (edgeAnswers s) := by
  cases h with
  | reset hrst => simp [hr] at hrst
  | noKey _ hp hk => simp [edgeAnswers, hp, hk, runEvents, answerEvents]
  | key _ hp k hk =>
    simp [edgeAnswers, hp, hk, runEvents, answerEvents, keyEvents, settledTrace_dispatch, settledTrace_idle (.inl hp)]
  | stall _ hp => simp [edgeAnswers, hp, runEvents]
  | send _ hp => simp [edgeAnswers, hp, runEvents, settledTrace_accept hi hp]
  | gap _ hp => simp [edgeAnswers, hp, runEvents, settledTrace_gapEdge hp]
  | hold _ hp => simp [edgeAnswers, hp, runEvents, settledTrace_holdEdge hp]

/-! ### Runs -/

/-- A run that answers a state made a first step that did. -/
theorem runSteps_succ_eq_next {n : Nat} {s t : State} (h : runSteps (n + 1) s = .next t) :
    ∃ u, step s = .next u ∧ runSteps n u = .next t := by
  cases hs : step s with
  | next u => exact ⟨u, rfl, by rwa [runSteps_succ n hs] at h⟩
  | fault _ => simp [runSteps, Host.Core.run, core, hs] at h
  | refused _ => simp [runSteps, Host.Core.run, core, hs] at h

theorem pollAnswers_succ {s t : State} (n : Nat) (h : step s = .next t) :
    pollAnswers (n + 1) s = edgeAnswers s ++ pollAnswers n t := by
  simp [pollAnswers, edgeAnswers, h]

/-- R228: a run without reset adds to the settled trace what its poll answers add. -/
theorem runSteps_settledTrace {n : Nat} {s t : State} (hi : s.Inv) (hn : s.NoReset n) (h : runSteps n s = .next t) :
    settledTrace t = settledTrace s ++ runEvents s.cfg (pollAnswers n s) := by
  induction n generalizing s with
  | zero =>
    cases h
    simp [pollAnswers, runEvents]
  | succ n ih =>
    obtain ⟨u, hs, hu⟩ := runSteps_succ_eq_next h
    have he := edge_of_step hs
    obtain ⟨hcfg, hin, hed⟩ := he.frame
    obtain ⟨hr, hn⟩ := noReset_next hin hed hn
    rw [ih (he.inv hi) hn hu, he.settledTrace_eq hi hr, pollAnswers_succ n hs, hcfg]
    simp [runEvents]

/-- A run without reset from POLL back to POLL adds to the trace exactly `run(CFG, answers)` (R228). -/
theorem runSteps_poll_trace {n : Nat} {s t : State} (hi : s.Inv) (hs : s.phase = .poll) (ht : t.phase = .poll)
    (hn : s.NoReset n) (h : runSteps n s = .next t) : t.trace = s.trace ++ runEvents s.cfg (pollAnswers n s) := by
  rw [← settledTrace_idle (.inl hs), ← settledTrace_idle (.inl ht)]
  exact runSteps_settledTrace hi hn h

end Sys2Proof.Machine
end

section
/-! SUPPORT. The statements about the ROMs and about equal answers, settled. -/

namespace Sys2Proof.Machine

/-- Settles O48: both ROMs are read from the configuration alone, and every edge keeps it. -/
theorem noStepChangesTheRoms : Obligations.NoStepChangesTheRoms := by
  intro s t h
  obtain ⟨hcfg, -, -⟩ := (edge_of_step h).frame
  simp [hcfg]

/-- Settles O59: each run's trace is a function of its configuration, first trace and poll answers alone. -/
theorem traceDependsOnTheAnswersAlone : Obligations.TraceDependsOnTheAnswersAlone := by
  intro s s' t t' n m hi hi' hs hs' hcfg htrace hn hm hrun hrun' ht ht' hans
  calc
    t'.trace = s'.trace ++ runEvents s'.cfg (pollAnswers m s') := runSteps_poll_trace hi' hs' ht' hm hrun'
    _ = s.trace ++ runEvents s.cfg (pollAnswers n s) := by rw [htrace, hcfg, hans]
    _ = t.trace := (runSteps_poll_trace hi hs ht hn hrun).symm

end Sys2Proof.Machine
end

section
/-! SUPPORT. The events of the Actions that play one frame once in SolidFill, and of those that play nothing; and the
statement about the pseudo-commands, settled. -/

namespace Sys2Proof.Machine

/-- SolidFill shows the Action's colour at every index; the frame is not read (R165). -/
theorem word_solidFill {a : Action} {col : Color} (hm : actionMode a = .solidFill) (hc : actionColor a = some col)
    (c : Cfg) (f i : Nat) : word c a f i = encodeColor col := by
  simp [word, blendWord, blendColor, hm, hc, pixColor, blendSolid]

theorem frameEvents_solidFill {a : Action} {col : Color} (hm : actionMode a = .solidFill)
    (hc : actionColor a = some col) (c : Cfg) (f : Nat) :
    frameEvents c a f = List.replicate numPix (.emit (encodeColor col)) := by
  simp [frameEvents, word_solidFill hm hc, List.map_const']

/-- One frame played once has no wait (R170, R178). -/
theorem events_oneFrame {c : Cfg} {a : Action} (hf : nfr c a = 1) (hr : nrep c a = 1) :
    events c a = frameEvents c a 0 := by
  simp [events, hf, hr]

/-- One frame played once in SolidFill is 25 times the word of the Action's colour (R204, R205). -/
theorem events_oneSolidFrame {c : Cfg} {a : Action} {col : Color} (hf : nfr c a = 1) (hr : nrep c a = 1)
    (hm : actionMode a = .solidFill) (hc : actionColor a = some col) :
    events c a = List.replicate numPix (.emit (encodeColor col)) := by
  rw [events_oneFrame hf hr, frameEvents_solidFill hm hc]

theorem events_fillSolid (c : Cfg) (col : Color) :
    events c (.fillSolid col) = List.replicate numPix (.emit (encodeColor col)) :=
  events_oneSolidFrame rfl rfl rfl rfl

theorem events_turnOff (c : Cfg) : events c .turnOff = List.replicate numPix (.emit (encodeColor black)) :=
  events_oneSolidFrame rfl rfl rfl rfl

theorem events_noOp (c : Cfg) : events c .noOp = [] := events_empty rfl

/-- `HELD k x n` denotes the answers of `n` lines `KEY k` (R93). -/
theorem scriptAnswers_held (k : KeyCode) (n : Nat) :
    scriptAnswers [.held k n] = scriptAnswers (List.replicate n (.key k)) := by
  induction n with
  | zero => rfl
  | succ n ih =>
    calc scriptAnswers [.held k (n + 1)]
      _ = some k :: scriptAnswers [.held k n] := by simp [scriptAnswers, ScriptLine.answers, List.replicate_succ]
      _ = some k :: scriptAnswers (List.replicate n (.key k)) := by rw [ih]
      _ = scriptAnswers (List.replicate (n + 1) (.key k)) := rfl

/-- Settles O18: TurnOff, FillSolid and the one-frame play in SolidFill are the same 25 words, NoOp and the plays
without a frame or a cycle add nothing, and a held key denotes the answers of its repeated line. -/
theorem pseudoCommandsHaveEqualEvents : Obligations.PseudoCommandsHaveEqualEvents := by
  refine ⟨fun c => ?turnOff, fun c s d col chan hd hf hr => ?fillSolid, fun c s d col mode chan hd h0 => ?noOp,
    fun c k n => ?held⟩
  case turnOff => exact (events_turnOff c).trans (events_fillSolid c black).symm
  case fillSolid =>
    have hf : nfr c (.playSequence s col .solidFill chan) = 1 := by simpa [nfr, seqDesc_named hd] using hf
    have hr : nrep c (.playSequence s col .solidFill chan) = 1 := by simpa [nrep, seqDesc_named hd] using hr
    rw [events_oneSolidFrame hf hr rfl rfl, events_fillSolid]
  case noOp =>
    have hw : words c (.playSequence s col mode chan) = 0 := by
      simpa [words, numPix, nfr, nrep, seqDesc_named hd] using h0
    rw [events_empty hw, events_noOp]
  case held => rw [scriptAnswers_held]

end Sys2Proof.Machine
end

section
/-! SUPPORT. The fields of a color word, the channel code as a floor, and the statements about the color encoder,
settled. -/

namespace Sys2Proof

/-! ### The fields of a color word (R113, R114) -/

/-- The bits of a color word, byte by byte from the high end. -/
theorem getLsbD_packWord (g r b : Code) (i : Nat) :
    (packWord g r b).getLsbD i =
      if 24 ≤ i then g.getLsbD (i - 24)
      else if 16 ≤ i then r.getLsbD (i - 16)
      else if 8 ≤ i then b.getLsbD (i - 8)
      else false := by
  simp only [packWord, BitVec.getLsbD_or, BitVec.getLsbD_shiftLeft, BitVec.getLsbD_setWidth]
  grind

@[simp] theorem packWord_green (g r b : Code) : (packWord g r b).extractLsb' 24 8 = g := by
  ext i hi
  simp [getLsbD_packWord, BitVec.getLsbD_eq_getElem hi]

@[simp] theorem packWord_red (g r b : Code) : (packWord g r b).extractLsb' 16 8 = r := by
  ext i hi
  simp [getLsbD_packWord, BitVec.getLsbD_eq_getElem hi, show ¬24 ≤ 16 + i by omega]

@[simp] theorem packWord_blue (g r b : Code) : (packWord g r b).extractLsb' 8 8 = b := by
  ext i hi
  simp [getLsbD_packWord, BitVec.getLsbD_eq_getElem hi, show ¬24 ≤ 8 + i by omega, show ¬16 ≤ 8 + i by omega]

@[simp] theorem packWord_lowByte (g r b : Code) : (packWord g r b).extractLsb' 0 8 = 0 := by
  ext i hi
  simp [getLsbD_packWord, show ¬24 ≤ i by omega, show ¬16 ≤ i by omega, show ¬8 ≤ i by omega]

/-- A color word is determined by its three codes and determines them (R118(d)). -/
theorem packWord_inj {g r b g' r' b' : Code} : packWord g r b = packWord g' r' b' ↔ r = r' ∧ g = g' ∧ b = b' := by
  constructor
  · intro h
    have hr := congrArg (BitVec.extractLsb' 16 8) h
    have hg := congrArg (BitVec.extractLsb' 24 8) h
    have hb := congrArg (BitVec.extractLsb' 8 8) h
    simp only [packWord_red, packWord_green, packWord_blue] at hr hg hb
    exact ⟨hr, hg, hb⟩
  · rintro ⟨rfl, rfl, rfl⟩
    rfl

/-- A word whose low byte is zero is packed from its own three upper bytes (R118(e)). -/
theorem packWord_extract {w : Word} (h : w.extractLsb' 0 8 = 0) :
    packWord (w.extractLsb' 24 8) (w.extractLsb' 16 8) (w.extractLsb' 8 8) = w := by
  refine BitVec.eq_of_getLsbD_eq fun i hi => ?_
  rw [getLsbD_packWord]
  simp only [BitVec.getLsbD_extractLsb']
  split_ifs with h24 h16 h8
  · simp [show i - 24 < 8 by omega, show 24 + (i - 24) = i by omega]
  · simp [show i - 16 < 8 by omega, show 16 + (i - 16) = i by omega]
  · simp [show i - 8 < 8 by omega, show 8 + (i - 8) = i by omega]
  · simpa [show i < 8 by omega] using (congrArg (BitVec.getLsbD · i) h).symm

end Sys2Proof

namespace Sys2Proof.Machine

/-! ### Clamping (R11, R112) -/

theorem clamp01_eq_max_min (c : Intensity) : clamp01 c = max 0 (min c 1) := by
  unfold clamp01
  split_ifs with h0 h1
  · rw [min_eq_left (by linarith), max_eq_left h0.le]
  · rw [min_eq_right h1.le, max_eq_right zero_le_one]
  · rw [min_eq_left (not_lt.mp h1), max_eq_right (not_lt.mp h0)]

theorem clamp01_mono {c c' : Intensity} (h : c ≤ c') : clamp01 c ≤ clamp01 c' := by
  simp only [clamp01_eq_max_min]
  gcongr

theorem clamp01_nonneg (c : Intensity) : 0 ≤ clamp01 c := by simp [clamp01_eq_max_min]

theorem clamp01_le_one (c : Intensity) : clamp01 c ≤ 1 := by simp [clamp01_eq_max_min]

theorem clamp01_of_nonpos {c : Intensity} (h : c ≤ 0) : clamp01 c = 0 := by
  simp [clamp01_eq_max_min, h]

theorem one_le_clamp01_iff {c : Intensity} : 1 ≤ clamp01 c ↔ 1 ≤ c := by
  simp [clamp01_eq_max_min]

theorem clamp01_of_mem {c : Intensity} (h0 : 0 ≤ c) (h1 : c ≤ 1) : clamp01 c = c := by
  simp [clamp01_eq_max_min, h0, h1]

/-! ### The channel code (R111) -/

/-- The 8 bits of the code hold the truncated product whole. -/
theorem toNat_q8 (c : Intensity) : (q8 c).toNat = ⌊clamp01 c * 255⌋₊ := by
  have hle : ⌊clamp01 c * 255⌋₊ ≤ 255 := by
    calc ⌊clamp01 c * 255⌋₊
      _ ≤ ⌊(1 * 255 : Intensity)⌋₊ := by gcongr; exact clamp01_le_one c
      _ = 255 := by norm_num
  simp [q8, Int.floor_toNat, Nat.mod_eq_of_lt (Nat.lt_succ_of_le hle)]

/-- A code is the one whose unit step holds the clamped product. -/
theorem q8_eq_iff {c : Intensity} {k : Code} :
    q8 c = k ↔ (k.toNat : Intensity) ≤ clamp01 c * 255 ∧ clamp01 c * 255 < (k.toNat : Intensity) + 1 := by
  rw [← BitVec.toNat_inj, toNat_q8, Nat.floor_eq_iff (mul_nonneg (clamp01_nonneg c) (by norm_num))]

theorem q8_mono {c c' : Intensity} (h : c ≤ c') : (q8 c).toNat ≤ (q8 c').toNat := by
  rw [toNat_q8, toNat_q8]
  gcongr
  exact clamp01_mono h

theorem q8_of_nonpos {c : Intensity} (h : c ≤ 0) : q8 c = 0 := by
  simp [q8_eq_iff, clamp01_of_nonpos h]

@[simp] theorem q8_zero : q8 0 = 0 := q8_of_nonpos le_rfl

theorem q8_eq_255_iff {c : Intensity} : q8 c = 255 ↔ 1 ≤ c := by
  have hle := clamp01_le_one c
  have h255 : ((255 : Code).toNat : Intensity) = 255 := rfl
  rw [q8_eq_iff, ← one_le_clamp01_iff, h255]
  constructor
  · rintro ⟨h, -⟩
    linarith
  · intro h
    constructor <;> linarith

/-- Every code is the code of an intensity (R88, R118(e)). -/
@[simp] theorem q8_intensityOfCode (k : Code) : q8 (intensityOfCode k) = k := by
  have hk : (k.toNat : Intensity) ≤ 255 := by exact_mod_cast Nat.le_of_lt_succ k.isLt
  have h0 : 0 ≤ intensityOfCode k := div_nonneg (Nat.cast_nonneg _) (by norm_num)
  have h1 : intensityOfCode k ≤ 1 := div_le_one_of_le₀ hk (by norm_num)
  rw [q8_eq_iff, clamp01_of_mem h0 h1, intensityOfCode, div_mul_cancel₀ _ (by norm_num)]
  exact ⟨le_rfl, lt_add_one _⟩

/-- Settles O7: the code is the unit step that holds the clamped product, and clamping leaves an intensity between 0
and 1 as it is. -/
theorem channelCodeTruncatesTheClampedProduct : Obligations.ChannelCodeTruncatesTheClampedProduct := by
  intro c
  refine ⟨fun h => q8_of_nonpos h.le, fun h => q8_eq_255_iff.mpr h.le, fun h0 h1 => ?between, q8_eq_255_iff,
    ?examples⟩
  case between => simpa [clamp01_of_mem h0 h1] using q8_eq_iff.mp (rfl : q8 c = q8 c)
  case examples => decide +kernel

/-! ### The color word (R110) -/

@[simp] theorem encodeColor_green (c : Color) : (encodeColor c).extractLsb' 24 8 = q8 c.g := packWord_green _ _ _
@[simp] theorem encodeColor_red (c : Color) : (encodeColor c).extractLsb' 16 8 = q8 c.r := packWord_red _ _ _
@[simp] theorem encodeColor_blue (c : Color) : (encodeColor c).extractLsb' 8 8 = q8 c.b := packWord_blue _ _ _
@[simp] theorem encodeColor_lowByte (c : Color) : (encodeColor c).extractLsb' 0 8 = 0 := packWord_lowByte _ _ _

/-- Every word of three codes is the word of a colour (R88). -/
theorem encodeColor_colorOfCodes (r g b : Code) : encodeColor (colorOfCodes r g b) = packWord g r b := by
  simp [encodeColor, colorOfCodes]

/-- R118(e): the words of colours are those whose low byte is zero. -/
theorem lowByte_eq_zero_iff (w : Word) : w.extractLsb' 0 8 = 0 ↔ ∃ c : Color, encodeColor c = w := by
  constructor
  · intro h
    exact ⟨_, (encodeColor_colorOfCodes _ _ _).trans (packWord_extract h)⟩
  · rintro ⟨c, rfl⟩
    exact encodeColor_lowByte c

/-- Settles O6: each byte of the packed word is the code put there. -/
theorem colorWordPacksChannelCodes : Obligations.ColorWordPacksChannelCodes := fun c =>
  ⟨encodeColor_green c, encodeColor_red c, encodeColor_blue c, encodeColor_lowByte c⟩

/-- Settles O8: each field of the word is one channel's code, which is monotone and takes every value. -/
theorem colorWordProperties : Obligations.ColorWordProperties := by
  refine ⟨?black, encodeColor_lowByte, fun r r' g b h => ?red, fun r g g' b h => ?green, fun r g b b' h => ?blue,
    fun c c' => packWord_inj, lowByte_eq_zero_iff, ?examples⟩
  case black => simp [encodeColor, packWord]
  case red => simpa using q8_mono h
  case green => simpa using q8_mono h
  case blue => simpa using q8_mono h
  case examples => decide +kernel

/-! ### Blending codes (R119) -/

theorem map_encodeColor_blendUniform (chan : Chan) (c : Color) (x : Intensity) (i : Nat) :
    (blendUniform chan c x).map encodeColor =
      codeWord .uniformColor chan (q8 c.r) (q8 c.g) (q8 c.b) (some (.scalar (q8 x))) i := by
  cases chan <;> rfl

/-- The channels that the parity of the index leaves out are 0 before and after coding (R163). -/
theorem encodeColor_blendWeighted (x : Intensity) (i : Nat) :
    encodeColor (blendWeighted x i) = if i % 2 = 0 then packWord 0 0 (q8 x) else packWord 0 (q8 x) 0 := by
  unfold blendWeighted
  split_ifs <;> simp [encodeColor]

/-- Settles O9: every mode only selects channels, so coding each channel commutes with it, and both sides are undefined
where the entry is absent or of the wrong kind. -/
theorem storedCodesGiveTheSameWord : Obligations.StoredCodesGiveTheSameWord := by
  intro mode chan c e i
  cases mode with
  | solidFill => rfl
  | uniformColor =>
    obtain _ | x | _ := e
    · cases chan <;> rfl
    · exact map_encodeColor_blendUniform chan c x i
    · cases chan <;> rfl
  | weightedBicolor =>
    obtain _ | x | _ := e
    · rfl
    · exact congrArg some (encodeColor_blendWeighted x i)
    · rfl
  | direct => obtain _ | _ | _ := e <;> rfl

end Sys2Proof.Machine
end

section
/-! SUPPORT. The frames of a well-formed configuration and what `FrameRead` returns of them; and the statement about
their entries, settled. -/

namespace Sys2Proof.Machine

/-! ### Well-formed frames (R146(a), R147) -/

theorem frameWf_iff {k : EntryKind} {fr : Frame} :
    frameWf k fr = true ↔ fr.length = 25 ∧ ∀ e ∈ fr, entryFits k e = true := by
  simp [frameWf, numPix]

/-- Each of the 25 positions of a well-formed frame holds an entry of the frame's kind. -/
theorem frameWf_entry {k : EntryKind} {fr : Frame} (h : frameWf k fr = true) {p : Nat} (hp : p ≤ 24) :
    ∃ e, fr[p]? = some e ∧ entryFits k e = true := by
  obtain ⟨hlen, hfit⟩ := frameWf_iff.mp h
  have hlt : p < fr.length := by omega
  exact ⟨fr[p], List.getElem?_eq_getElem hlt, hfit _ (List.getElem_mem hlt)⟩

/-- The frames that a well-formed sequence counts exist and are well-formed. -/
theorem seqWf_frame {d : SeqDesc} {frames : List Frame} (h : seqWf d frames = true) {f : Nat} (hf : f < d.nframes) :
    ∃ fr, frames[f]? = some fr ∧ frameWf d.kind fr = true := by
  simp only [seqWf, Bool.and_eq_true, decide_eq_true_eq, List.all_eq_true] at h
  obtain ⟨⟨-, hcount⟩, hframes⟩ := h
  have hlt : f < frames.length := hf.trans_le hcount
  have hmem : frames[f] ∈ frames.take d.nframes := List.mem_take_iff_getElem.mpr ⟨f, by omega, rfl⟩
  exact ⟨frames[f], List.getElem?_eq_getElem hlt, hframes _ hmem⟩

/-- In a well-formed configuration every sequence is well-formed (R146(a), (b)). -/
theorem seqWf_of_cfgWf {c : Cfg} (hw : cfgWf c = true) {q : Nat} {d : SeqDesc} {frames : List Frame}
    (hd : c.seq[q]? = some d) (hfr : c.frame[q]? = some frames) : seqWf d frames = true := by
  have hz : (c.seq.toList.zip c.frame.toList)[q]? = some (d, frames) := by
    simp [List.getElem?_zip_eq_some, hd, hfr]
  simp only [cfgWf, Bool.and_eq_true, List.all_eq_true] at hw
  exact hw.1 _ (List.mem_of_getElem? hz)

/-! ### `FrameRead` of a named sequence (R52) -/

theorem frameRead_inside {c : Cfg} {s : SeqId} {d : SeqDesc} {frames : List Frame} {fr : Frame} {f p : Nat}
    (hd : c.seq[s.toNat]? = some d) (hfr : c.frame[s.toNat]? = some frames) (hf : f < d.nframes) (hp : p ≤ 24)
    (h : frames[f]? = some fr) : frameRead c s f p = fr[p]? := by
  simp [frameRead, lastPix, hd, hfr, hf, hp, h]

theorem frameRead_beyond {c : Cfg} {s : SeqId} {d : SeqDesc} {f p : Nat} (hd : c.seq[s.toNat]? = some d)
    (h : d.nframes ≤ f ∨ 24 < p) : frameRead c s f p = none := by
  have hout : ¬(f < d.nframes ∧ p ≤ lastPix) := by unfold lastPix; omega
  cases hfr : c.frame[s.toNat]? with
  | none => simp [frameRead, hd, hfr]
  | some frames => simp only [frameRead, hd, hfr, if_neg hout]

/-- Settles O11: a counted frame exists and is well-formed, so `FrameRead` finds an entry of the sequence's kind at each
of its 25 positions; beyond the count or the last position it is undefined. -/
theorem wellFormedFramesHave25Entries : Obligations.WellFormedFramesHave25Entries := by
  intro c hw s d frames hd hfr f
  refine ⟨fun hf => ?inside, fun p hout => frameRead_beyond hd hout⟩
  case inside =>
    obtain ⟨fr, hget, hwf⟩ := seqWf_frame (seqWf_of_cfgWf hw hd hfr) hf
    obtain ⟨hlen, -⟩ := frameWf_iff.mp hwf
    refine ⟨fr, hget, hlen, fun p hp => ?_⟩
    obtain ⟨e, he, hfit⟩ := frameWf_entry hwf hp
    exact ⟨e, he, hfit, (frameRead_inside hd hfr hf hp hget).trans he⟩

end Sys2Proof.Machine
end

section
/-! SUPPORT. The events of an Action as frames, each but the last followed by its wait; and the statements about their
words and waits, settled. -/

namespace Sys2Proof.Machine

/-! ### Words and waits of a list of events -/

@[simp] theorem emits_append (t u : List Event) : emits (t ++ u) = emits t ++ emits u := List.filterMap_append

@[simp] theorem sleeps_append (t u : List Event) : sleeps (t ++ u) = sleeps t ++ sleeps u := List.filterMap_append

@[simp] theorem emits_flatMap {α : Type} (l : List α) (f : α → List Event) :
    emits (l.flatMap f) = l.flatMap (fun x => emits (f x)) := List.filterMap_flatMap

@[simp] theorem sleeps_flatMap {α : Type} (l : List α) (f : α → List Event) :
    sleeps (l.flatMap f) = l.flatMap (fun x => sleeps (f x)) := List.filterMap_flatMap

@[simp] theorem emits_sleep (d : Nat) : emits [.sleep d] = [] := rfl

@[simp] theorem sleeps_sleep (d : Nat) : sleeps [.sleep d] = [d] := rfl

@[simp] theorem emits_frameEvents (c : Cfg) (a : Action) (f : Nat) :
    emits (frameEvents c a f) = (List.range numPix).map (word c a f) := by
  simp [emits, frameEvents, List.filterMap_map, Function.comp_def, Event.word?]

@[simp] theorem sleeps_frameEvents (c : Cfg) (a : Action) (f : Nat) : sleeps (frameEvents c a f) = [] := by
  simp [sleeps, frameEvents, Event.ms?]

/-- A frame ends with the word of its last output index. -/
theorem frameEvents_getLast? (c : Cfg) (a : Action) (f : Nat) :
    (frameEvents c a f).getLast? = some (.emit (word c a f lastPix)) := by
  simp [frameEvents, numPix, lastPix, List.range_succ]

/-! ### Every frame but the last is followed by its wait (R160, R169, R170) -/

theorem events_eq_frameBlocks (c : Cfg) (a : Action) :
    events c a = (List.range (nrep c a)).flatMap (fun y => (List.range (nfr c a)).flatMap (frameBlock c a y)) := rfl

/-- The frames of an Action before its last one, in the order they are played: all of the earlier cycles' and the last
cycle's but one (R160). -/
def waitedFrames (c : Cfg) (a : Action) : List Nat :=
  (List.range (nrep c a - 1)).flatMap (fun _ => List.range (nfr c a)) ++ List.range (nfr c a - 1)

/-- A frame and the wait after it (R169). -/
def frameThenWait (c : Cfg) (a : Action) (f : Nat) : List Event := frameEvents c a f ++ [.sleep (dly c a)]

theorem waitedFrames_length {c : Cfg} {a : Action} (h : 0 < words c a) :
    (waitedFrames c a).length = nfr c a * nrep c a - 1 := by
  obtain ⟨hf, hr⟩ := (words_pos_iff c a).mp h
  obtain ⟨r, hr⟩ := Nat.exists_eq_add_of_lt hr
  simp only [waitedFrames, List.length_append, List.length_flatMap, List.length_range, List.map_const',
    List.sum_replicate, hr, Nat.zero_add, Nat.add_sub_cancel, Nat.mul_add_one, smul_eq_mul]
  rw [Nat.mul_comm r, Nat.add_sub_assoc hf]

theorem frameBlock_last {c : Cfg} {a : Action} {cycle f : Nat} (hr : cycle + 1 = nrep c a) (hf : f + 1 = nfr c a) :
    frameBlock c a cycle f = frameEvents c a f := by
  simp [frameBlock, hr, hf]

theorem frameBlock_waited {c : Cfg} {a : Action} {cycle f : Nat} (h : cycle + 1 ≠ nrep c a ∨ f + 1 ≠ nfr c a) :
    frameBlock c a cycle f = frameThenWait c a f := by
  rw [frameBlock, if_neg (by tauto), frameThenWait]

/-- Every frame of a cycle that is not the last is followed by its wait. -/
theorem earlierCycle_eq {c : Cfg} {a : Action} {cycle : Nat} (h : cycle + 1 ≠ nrep c a) :
    (List.range (nfr c a)).flatMap (frameBlock c a cycle) = (List.range (nfr c a)).flatMap (frameThenWait c a) :=
  List.flatMap_congr fun _ _ => frameBlock_waited (.inl h)

/-- Every frame of the last cycle but its last is followed by its wait. -/
theorem lastCycle_eq {c : Cfg} {a : Action} {cycle f : Nat} (hr : cycle + 1 = nrep c a) (hf : f + 1 = nfr c a) :
    (List.range (nfr c a)).flatMap (frameBlock c a cycle) =
      (List.range f).flatMap (frameThenWait c a) ++ frameEvents c a f := by
  rw [← hf, List.range_succ, List.flatMap_append, List.flatMap_singleton, frameBlock_last hr hf]
  congr 1
  exact List.flatMap_congr fun g hg => frameBlock_waited (.inr (by have := List.mem_range.mp hg; omega))

/-- An Action that emits at all plays its earlier frames, each followed by its wait, and then its last frame alone. -/
theorem events_eq_waitedFrames {c : Cfg} {a : Action} (h : 0 < words c a) :
    events c a = (waitedFrames c a).flatMap (frameThenWait c a) ++ frameEvents c a (nfr c a - 1) := by
  obtain ⟨hf, hr⟩ := (words_pos_iff c a).mp h
  have hf' : nfr c a - 1 + 1 = nfr c a := Nat.sub_add_cancel hf
  have hr' : nrep c a - 1 + 1 = nrep c a := Nat.sub_add_cancel hr
  have hearlier : (List.range (nrep c a - 1)).flatMap (fun y => (List.range (nfr c a)).flatMap (frameBlock c a y)) =
      (List.range (nrep c a - 1)).flatMap (fun _ => (List.range (nfr c a)).flatMap (frameThenWait c a)) :=
    List.flatMap_congr fun y hy => earlierCycle_eq (by have := List.mem_range.mp hy; omega)
  calc events c a
    _ = (List.range (nrep c a - 1 + 1)).flatMap (fun y => (List.range (nfr c a)).flatMap (frameBlock c a y)) := by
      rw [hr', events_eq_frameBlocks]
    _ = _ := by
      rw [List.range_succ, List.flatMap_append, List.flatMap_singleton, hearlier, lastCycle_eq hr' hf', waitedFrames,
        List.flatMap_append, List.flatMap_assoc, List.append_assoc]

/-! ### The words (R172) -/

/-- A frame's wait has no word, be there one or not. -/
theorem emits_frameBlock (c : Cfg) (a : Action) (cycle f : Nat) :
    emits (frameBlock c a cycle f) = (List.range numPix).map (word c a f) := by
  unfold frameBlock
  split <;> simp

/-- The words of an Action: those of each frame in turn, cycle after cycle. -/
theorem emits_events (c : Cfg) (a : Action) :
    emits (events c a) = (List.range (nrep c a)).flatMap (fun _ =>
      (List.range (nfr c a)).flatMap (fun f => (List.range numPix).map (word c a f))) := by
  simp [events_eq_frameBlocks, emits_frameBlock]

/-- Settles O14: each of the `nfr * nrep` frames has 25 words. -/
theorem actionEmitsItsWordCount : Obligations.ActionEmitsItsWordCount := by
  intro c a
  simp only [emits_events, List.length_flatMap, List.length_map, List.length_range, List.map_const', List.sum_replicate,
    numPix, smul_eq_mul]
  ring

/-! ### The waits (R170) -/

/-- Settles O15: the earlier frames bring one wait each, and the last frame, which has none, ends the events. -/
theorem waitsOnlySeparateFrames : Obligations.WaitsOnlySeparateFrames := by
  intro c a
  obtain h | h := Nat.eq_zero_or_pos (words c a)
  · have h0 : nfr c a * nrep c a = 0 := by simpa [words, numPix] using h
    simp [events_empty h, h0, sleeps]
  · rw [events_eq_waitedFrames h]
    constructor
    · simp [frameThenWait, ← waitedFrames_length h, ← List.map_eq_flatMap]
    · simp [List.getLast?_append, frameEvents_getLast?]

/-! ### Whole frames (R171) -/

theorem wordsSinceSleep_append (n : Nat) (t u : List Event) :
    wordsSinceSleep n (t ++ u) = (wordsSinceSleep n t).bind (fun m => wordsSinceSleep m u) := by
  induction t generalizing n with
  | nil => rfl
  | cons e t ih =>
    cases e with
    | emit w => exact ih (n + 1)
    | sleep d =>
      simp only [List.cons_append, wordsSinceSleep, ih]
      split <;> rfl

theorem wordsSinceSleep_emits (n : Nat) (ws : List Word) :
    wordsSinceSleep n (ws.map .emit) = some (n + ws.length) := by
  induction ws generalizing n with
  | nil => rfl
  | cons w ws ih => simp [wordsSinceSleep, ih, Nat.add_assoc, Nat.add_comm 1]

theorem wordsSinceSleep_frameEvents (n : Nat) (c : Cfg) (a : Action) (f : Nat) :
    wordsSinceSleep n (frameEvents c a f) = some (n + numPix) := by
  simpa [frameEvents, Function.comp_def] using wordsSinceSleep_emits n ((List.range numPix).map (word c a f))

/-- Frames with their waits leave no words of an unfinished frame behind. -/
theorem wordsSinceSleep_frameThenWait (c : Cfg) (a : Action) (frames : List Nat) :
    wordsSinceSleep 0 (frames.flatMap (frameThenWait c a)) = some 0 := by
  induction frames with
  | nil => rfl
  | cons f frames ih =>
    simpa [frameThenWait, wordsSinceSleep_append, wordsSinceSleep_frameEvents, wordsSinceSleep, numPix] using ih

/-- If every wait follows whole frames, then so many words came before any one of them (R171). -/
theorem emits_before_sleep {n m d : Nat} {before after : List Event}
    (h : wordsSinceSleep n (before ++ .sleep d :: after) = some m) : (n + (emits before).length) % numPix = 0 := by
  induction before generalizing n with
  | nil =>
    by_contra hn
    simp only [emits, List.filterMap_nil, List.length_nil, Nat.add_zero] at hn
    simp [wordsSinceSleep, hn] at h
  | cons e before ih =>
    cases e with
    | emit w =>
      have hlen : (emits (.emit w :: before)).length = (emits before).length + 1 := rfl
      rw [hlen, Nat.add_comm _ 1, ← Nat.add_assoc]
      exact ih h
    | sleep d' =>
      have hemits : emits (.sleep d' :: before) = emits before := rfl
      simp only [List.cons_append, wordsSinceSleep, Option.ite_none_right_eq_some] at h
      obtain ⟨hn, h⟩ := h
      have hbefore := ih h
      rw [hemits]
      unfold numPix at *
      omega

/-- The words after the last wait of an Action are whole frames, and so are those between two waits (R171). -/
theorem wordsSinceSleep_events (c : Cfg) (a : Action) :
    ∃ n, wordsSinceSleep 0 (events c a) = some n ∧ n % numPix = 0 := by
  obtain h | h := Nat.eq_zero_or_pos (words c a)
  · exact ⟨0, by rw [events_empty h]; rfl, rfl⟩
  · refine ⟨numPix, ?_, rfl⟩
    rw [events_eq_waitedFrames h, wordsSinceSleep_append, wordsSinceSleep_frameThenWait, Option.bind_some,
      wordsSinceSleep_frameEvents, Nat.zero_add]

/-- Settles O16: every wait of the events finds whole frames since the wait before it, hence since the beginning. -/
theorem actionsEmitWholeFrames : Obligations.ActionsEmitWholeFrames := by
  intro c a
  obtain ⟨n, hn, hmod⟩ := wordsSinceSleep_events c a
  refine ⟨fun before d after h => ?_, n, hn, hmod⟩
  rw [h] at hn
  simpa [numPix] using emits_before_sleep hn

end Sys2Proof.Machine
end

section
/-! SUPPORT. The word of a PlaySequence from the entry its output index reads, and what conformance says of EXPLOSION; and
the statements about the modes and about EXPLOSION, settled. -/

namespace Sys2Proof.Machine

/-- The word of a PlaySequence is the colour its mode makes of the entry at position `24 - i` (R162, R168). -/
theorem word_playSequence {c : Cfg} {s : SeqId} {col x : Color} {mode : BlendMode} {chan : Chan} {f i : Nat} {e : Entry}
    (hi : i ≤ 24) (he : frameRead c s f (24 - i) = some e) (hx : pixColor mode chan col (some e) i = some x) :
    word c (.playSequence s col mode chan) f i = encodeColor x := by
  simp [word, blendWord, blendColor, actionMode, actionChan, actionColor, actionEntry, lastPix, hi, he, hx]

theorem blendWeighted_even {i : Nat} (h : i % 2 = 0) (e : Intensity) : blendWeighted e i = ⟨0, 0, e⟩ := if_pos h

theorem blendWeighted_odd {i : Nat} (h : i % 2 = 1) (e : Intensity) : blendWeighted e i = ⟨e, 0, 0⟩ :=
  if_neg (by omega)

theorem encodeColor_black : encodeColor black = 0 := colorWordProperties.1

/-- Settles O17: the fills show their colour at every index, and each other mode blends the entry read at `24 - i`. -/
theorem wordOfEveryMode : Obligations.WordOfEveryMode := by
  intro c s col chan f i hi
  refine ⟨?turnOff, word_solidFill rfl rfl c f i, word_solidFill rfl rfl c f i, fun e he => ?scalar,
    fun er eg eb he => word_playSequence hi he rfl⟩
  case turnOff => exact (word_solidFill rfl rfl c f i).trans encodeColor_black
  case scalar =>
    refine ⟨word_playSequence hi he rfl, word_playSequence hi he rfl, word_playSequence hi he rfl, fun h => ?_,
      fun h => ?_⟩
    · rw [← blendWeighted_even h]
      exact word_playSequence hi he rfl
    · rw [← blendWeighted_odd h]
      exact word_playSequence hi he rfl

/-! ### EXPLOSION in a conforming configuration (R131, R142, R149, R181) -/

theorem conforms_shape {c : Cfg} (h : conforms c = true) {q : Nat} {d : SeqDesc}
    {shape : Option Nat × Option Nat × Option Nat × EntryKind} (hd : c.seq[q]? = some d)
    (hs : fixedShapes[q]? = some shape) : shapeFits shape d = true := by
  have hz : (fixedShapes.zip c.seq.toList)[q]? = some (shape, d) := by
    simp [List.getElem?_zip_eq_some, hs, hd]
  simp only [conforms, Bool.and_eq_true, List.all_eq_true] at h
  obtain ⟨⟨⟨⟨⟨-, hshapes⟩, -⟩, -⟩, -⟩, -⟩ := h
  exact hshapes _ (List.mem_of_getElem? hz)

/-- EXPLOSION has 7 frames and 3 cycles (R131). -/
theorem conforms_explosion_shape {c : Cfg} (h : conforms c = true) :
    (seqDesc c seqExplosion).nframes = 7 ∧ (seqDesc c seqExplosion).repeats = 3 := by
  have hd : c.seq[seqExplosion.toNat]? = some c.seq[10] := rfl
  have hs := conforms_shape h hd rfl
  simp only [shapeFits, agrees, Option.all_some, Bool.and_eq_true, beq_iff_eq] at hs
  obtain ⟨⟨⟨hf, hr⟩, -⟩, -⟩ := hs
  rw [seqDesc_named hd]
  exact ⟨hf.symm, hr.symm⟩

/-- EXPLOSION is bound in mode SolidFill only (R142). -/
theorem conforms_explosion_mode {c : Cfg} (h : conforms c = true) {k : KeyCode} {col : Color} {mode : BlendMode}
    {chan : Chan} (hk : bindRead c k = .playSequence seqExplosion col mode chan) : mode = .solidFill := by
  simp only [conforms, Bool.and_eq_true, List.all_eq_true] at h
  obtain ⟨-, hbind⟩ := h
  have hs := hbind _ (bindRead_mem c k)
  rw [hk] at hs
  simpa [explosionSolid] using hs

/-- In SolidFill every word of an Action is its colour's, so that the frames set only how many there are (R165, R181). -/
theorem emits_events_solidFill {a : Action} {col : Color} (hm : actionMode a = .solidFill)
    (hc : actionColor a = some col) (c : Cfg) :
    emits (events c a) = List.replicate (25 * nfr c a * nrep c a) (encodeColor col) := by
  refine List.eq_replicate_iff.mpr ⟨actionEmitsItsWordCount c a, fun w hw => ?_⟩
  simp only [emits_events, word_solidFill hm hc, List.mem_flatMap, List.mem_map] at hw
  obtain ⟨-, -, -, -, -, -, rfl⟩ := hw
  rfl

/-- Settles O21: EXPLOSION is a play in SolidFill of 7 frames in 3 cycles, with the words and waits of its shape. -/
theorem explosionIgnoresItsFrames : Obligations.ExplosionIgnoresItsFrames := by
  intro c k col mode chan h hk
  obtain ⟨hf, hr⟩ := conforms_explosion_shape h
  obtain rfl := conforms_explosion_mode h hk
  obtain ⟨hsleeps, -⟩ := waitsOnlySeparateFrames c (bindRead c k)
  rw [hsleeps, hk, emits_events_solidFill rfl rfl]
  simp [nfr, nrep, hf, hr]

end Sys2Proof.Machine
end

section
/-! SUPPORT. The edges of EMIT, GAP and HOLD as equations of the step; and the statements about them, settled. -/

namespace Sys2Proof.Machine

/-! ### The EMIT step (R174, R175) -/

theorem step_emit {s : State} (hw : cfgWf s.cfg = true) (ha : actionWf s.cfg s.act = true) (hr : s.now.rst = false)
    (hp : s.phase = .emit) :
    step s = endEdge (emitEdge (word s.cfg s.act s.frm.toNat s.pix.toNat) s) := by
  rw [← exec_modeRow_word hp ha]
  simp [step, fetch, hw, hr, hp]

theorem emitEdge_stalled {w : Word} {s : State} (hp : s.phase = .emit) (hx : s.pix.toNat ≤ lastPix)
    (hs : s.now.ready = false) : emitEdge w s = .next s := by
  simp [emitEdge, hp, hx, hs]

theorem emitEdge_ready {w : Word} {s : State} (hp : s.phase = .emit) (hx : s.pix.toNat ≤ lastPix)
    (hs : s.now.ready = true) : emitEdge w s = .next (accept w s) := by
  simp [emitEdge, hp, hx, hs]

/-- The position after a frame's last word, both counters at once (R175). -/
theorem nextFrame_eq (s : State) :
    nextFrame s =
      { s with
        pix := 0
        frm := if s.frm.toNat + 1 < nfr s.cfg s.act then s.frm + 1 else 0
        rep := if s.frm.toNat + 1 < nfr s.cfg s.act then s.rep else s.rep + 1 } := by
  unfold nextFrame
  split <;> rfl

/-- Settles O42: the edge is the acceptance of the position's word, which either advances `pix`, ends the Action or ends
the frame. -/
theorem emitStepSendsTheWordOfThePosition : Obligations.EmitStepSendsTheWordOfThePosition := by
  intro s hw ha hr hp
  have hstep := step_emit hw ha hr hp
  refine ⟨fun hx hs => ?stalled, fun hx hs => ?midFrame, fun hx hs hrep hfrm => ?actionEnds,
    fun hx hs hl => ?frameEnds⟩
  case stalled => rw [hstep, emitEdge_stalled hp hx hs]; rfl
  case midFrame => rw [hstep, emitEdge_ready hp hx.le hs, accept_midFrame hx]; rfl
  case actionEnds =>
    have hpix : s.pix.toNat = 24 := by simp [hx]
    refine ⟨lastFrame (s.trace ++ [.emit (word s.cfg s.act s.frm.toNat 24)]), ?_⟩
    rw [hstep, emitEdge_ready hp hpix.le hs, hpix, accept_actionEnds hpix.not_lt ((isLast_iff s).mpr ⟨hrep, hfrm⟩)]
    simp [endEdge, enterHold, debounceMs]
  case frameEnds =>
    have hpix : s.pix.toNat = 24 := by simp [hx]
    have hl : isLast s = false := by simpa using (isLast_iff s).not.mpr hl
    refine ⟨lastFrame (s.trace ++ [.emit (word s.cfg s.act s.frm.toNat 24)]), ?_⟩
    rw [hstep, emitEdge_ready hp hpix.le hs, hpix, accept_frameEnds hpix.not_lt hl, nextFrame_eq]
    simp [endEdge, enterGap]

/-- Entering the gap loads the whole delay, and the counter that counts up stays below its bound (R26, R175, R182). -/
theorem enterGap_nextFrame_counters {s : State} (hi : s.Inv) (hp : s.phase = .emit) (hl : isLast s = false) :
    (enterGap (nextFrame s)).tmr.toNat = dly s.cfg s.act ∧
      (((nextFrame s).frm.toNat = s.frm.toNat + 1 ∧ (nextFrame s).rep.toNat = s.rep.toNat ∧
          (nextFrame s).frm.toNat < nfr s.cfg s.act) ∨
       ((nextFrame s).frm.toNat = 0 ∧ (nextFrame s).rep.toNat = s.rep.toNat + 1 ∧
          (nextFrame s).rep.toNat < nrep s.cfg s.act)) := by
  have ⟨hcfg, hact, _⟩ := hi
  obtain ⟨-, -, hd⟩ := actionCounters_le hcfg hact
  constructor
  · simp [nextFrame_frame, Nat.mod_eq_of_lt (Nat.lt_succ_of_le hd)]
  · obtain ⟨hf, hs, he⟩ | ⟨-, hr, hs, he⟩ := nextFrame_cases hi hp hl <;> rw [he]
    · exact .inl ⟨hs, rfl, hs.trans_lt hf⟩
    · exact .inr ⟨rfl, hs, hs.trans_lt hr⟩

/-- Settles O53: `pix` counts below 24, the counter that the next frame counts up stays below its bound of at most 255,
and a delay of at most 65535 fits the timer. -/
theorem countersNeverWrap : Obligations.CountersNeverWrap := by
  intro s t hi hr hp hs h
  have ⟨hcfg, hact, hpix, _⟩ := hi
  obtain ⟨hnf, hnr, -⟩ := actionCounters_le hcfg hact
  refine ⟨hnf, hnr, ?_⟩
  rw [step_emit hcfg hact hr hp, emitEdge_ready hp hpix hs] at h
  cases h
  obtain ⟨hx, he⟩ | ⟨hx, -, he⟩ | ⟨hx, hl, he⟩ := accept_cases (word s.cfg s.act s.frm.toNat s.pix.toNat) s <;> rw [he]
  · exact ⟨fun h => toNat_add_one (by omega), fun h => absurd hx h.not_lt, fun h => by simp [hp] at h⟩
  · exact ⟨fun h => absurd h hx, fun _ => rfl, fun h => by simp at h⟩
  · exact ⟨fun h => absurd h hx, fun _ => by simp [nextFrame_frame],
      fun _ => enterGap_nextFrame_counters (s := { s with trace := _, disp := _ }) hi hp hl⟩

/-! ### The waiting steps (R176, R207) -/

theorem step_gap {s : State} (hw : cfgWf s.cfg = true) (hr : s.now.rst = false) (hp : s.phase = .gap) :
    step s = .next (waitEdge .emit s).consume := by
  simp [step, fetch, idleEdge, gapEdge, hw, hr, hp]

theorem step_hold {s : State} (hw : cfgWf s.cfg = true) (hr : s.now.rst = false) (hp : s.phase = .hold) :
    step s = .next (waitEdge .poll s).consume := by
  simp [step, fetch, idleEdge, holdEdge, hw, hr, hp]

theorem waitEdge_over (p : Phase) {s : State} (h : s.tmr = 0) : waitEdge p s = { s with phase := p } := if_pos h

theorem waitEdge_tick (p : Phase) {s : State} (h : s.tmr ≠ 0) (ht : s.now.tick = true) :
    waitEdge p s = { s with tmr := s.tmr - 1 } := by
  rw [waitEdge, if_neg h, if_pos ht]

theorem waitEdge_noTick (p : Phase) {s : State} (h : s.tmr ≠ 0) (ht : s.now.tick = false) : waitEdge p s = s := by
  rw [waitEdge, if_neg h, if_neg (by simp [ht])]

/-- Settles O45: the hold loads 200, and GAP and HOLD make the same wait and differ in the phase they leave for. -/
theorem waitingSteps : Obligations.WaitingSteps := by
  refine ⟨fun s => rfl, fun s hw hr hp => ?gap, fun s hw hr hp => ?hold⟩
  case gap =>
    rw [step_gap hw hr hp]
    exact ⟨fun h => by rw [waitEdge_over _ h], fun h ht => by rw [waitEdge_tick _ h ht],
      fun h ht => by rw [waitEdge_noTick _ h ht]⟩
  case hold =>
    rw [step_hold hw hr hp]
    exact ⟨fun h => by rw [waitEdge_over _ h], fun h ht => by rw [waitEdge_tick _ h ht],
      fun h ht => by rw [waitEdge_noTick _ h ht]⟩

end Sys2Proof.Machine
end

section
/-! SUPPORT. The key commands: what the bindings fixed by the source play, and when an edge leaves the block idle; and the
statements about the dispatcher, settled. -/

namespace Sys2Proof.Machine

/-! ### No key, and a key in POLL (R201, R202) -/

theorem pollKey_eq_none_iff (i : Input) : pollKey i = none ↔ i.keyValid = false := by
  simp [pollKey]

/-- A poll that returns no key only consumes its sample (R201). -/
theorem step_poll_noKey {s : State} (hw : cfgWf s.cfg = true) (hr : s.now.rst = false) (hp : s.phase = .poll)
    (hk : pollKey s.now = none) : step s = .next s.consume := by
  simp [step, fetch, hw, hr, hp, exec_portCommand, hk, endEdge]

theorem dstate_eq_idle_iff (s : State) : dstate s = .idle ↔ s.phase = .poll := by
  unfold dstate
  cases s.phase <;> simp

theorem dstate_eq_debounce_iff (s : State) : dstate s = .debounce ↔ s.phase ≠ .poll := by
  unfold dstate
  cases s.phase <;> simp

/-- Settles O32: the NOKEY arm answers its state, and a poll with `key_valid = 0` runs it whatever the code wires show. -/
theorem noKeyHasNoEffect : Obligations.NoKeyHasNoEffect :=
  ⟨fun _ _ => rfl, fun _ hw hr hp hk =>
    ⟨step_poll_noKey hw hr hp ((pollKey_eq_none_iff _).mpr hk), (dstate_eq_idle_iff _).mpr hp⟩⟩

/-- Settles O33: every key command presses its key, and in POLL that is the dispatch of the key's binding. -/
theorem keyDispatchesItsBinding : Obligations.KeyDispatchesItsBinding := by
  intro k s hp
  rw [exec_keyInstr, pressKey_poll hp]
  exact ⟨fun h => by rw [dispatch_empty h]; rfl, fun h => by rw [dispatch_plays h]⟩

/-! ### Which edges leave the block in POLL (R23, R208) -/

/-- A dispatch leaves POLL, for EMIT or for the hold (R202). -/
theorem dispatch_phase_ne_poll (a : Action) (s : State) : (dispatch a s).phase ≠ .poll := by
  unfold dispatch
  split <;> simp

/-- The acceptance of a word stays in the Action or enters the hold (R174, R175). -/
theorem accept_phase_ne_poll (w : Word) {s : State} (hp : s.phase = .emit) : (accept w s).phase ≠ .poll := by
  obtain ⟨-, h⟩ | ⟨-, -, h⟩ | ⟨-, -, h⟩ := accept_cases w s <;> simp [h, hp]

/-- A waiting phase is left for POLL only when the wait is over, and only by the one that leaves for POLL (R176, R207). -/
theorem waitEdge_phase_eq_poll_iff (p : Phase) {s : State} (hs : s.phase ≠ .poll) :
    (waitEdge p s).phase = .poll ↔ p = .poll ∧ s.tmr = 0 := by
  obtain ⟨h, he⟩ | ⟨h, -, he⟩ | ⟨h, -, he⟩ := waitEdge_cases p s <;> rw [he]
  · exact (and_iff_left h).symm
  · exact iff_of_false hs (fun hp => h hp.2)
  · exact iff_of_false hs (fun hp => h hp.2)

/-- An edge ends in POLL exactly by reset, by a poll that returns no key, or by the end of the hold. -/
theorem Edge.phase_eq_poll_iff {s t : State} (h : Edge s t) :
    t.phase = .poll ↔
      s.now.rst = true ∨ (s.phase = .poll ∧ pollKey s.now = none) ∨ (s.phase = .hold ∧ s.tmr = 0) := by
  cases h with
  | reset hr => simp [hr]
  | noKey hr hp hk => simp [hr, hp, hk]
  | key hr hp k hk => simp [hr, hp, hk, dispatch_phase_ne_poll]
  | stall hr hp => simp [hr, hp]
  | send hr hp => simp [hr, hp, accept_phase_ne_poll]
  | gap hr hp => simp [hr, hp, gapEdge, waitEdge_phase_eq_poll_iff]
  | hold hr hp => simp [hr, hp, holdEdge, waitEdge_phase_eq_poll_iff]

/-- Settles O49: Idle is POLL, and the edges that end in POLL are read from either side. -/
theorem debounceIsSetByAKeyAndClearedByTheHold : Obligations.DebounceIsSetByAKeyAndClearedByTheHold := by
  intro s t h
  simp only [dstate_eq_idle_iff, dstate_eq_debounce_iff, ne_eq, (edge_of_step h).phase_eq_poll_iff]
  constructor
  · intro hp
    simp [hp, ← Option.ne_none_iff_exists']
  · intro hp
    simp [hp]

/-! ### The bindings fixed by the source (R216, R220, R222, R225) -/

theorem conforms_fixedBindings {c : Cfg} (h : conforms c = true) : fixedBindings c = true := by
  simp only [conforms, Bool.and_eq_true] at h
  obtain ⟨⟨-, hbind⟩, -⟩ := h
  exact hbind

theorem fixedBindings_fills {c : Cfg} (h : fixedBindings c = true) :
    bindRead c .kA = .turnOff ∧ bindRead c .kC = .fillSolid ⟨1, 0, 0⟩ ∧
      bindRead c .hash = .fillSolid ⟨1 / 5, 1 / 5, 1 / 5⟩ := by
  simp only [fixedBindings, Bool.and_eq_true, decide_eq_true_eq] at h
  obtain ⟨⟨⟨-, hA⟩, hC⟩, hhash⟩ := h
  exact ⟨hA, hC, hhash⟩

/-- Key `'6'` plays COUNT (R216). -/
theorem fixedBindings_key6 {c : Cfg} (h : fixedBindings c = true) :
    ∃ col chan, bindRead c .k6 = .playSequence seqCount col .uniformColor chan := by
  simp only [fixedBindings, Bool.and_eq_true] at h
  obtain ⟨⟨⟨h6, -⟩, -⟩, -⟩ := h
  split at h6
  case h_1 s col chan hk => exact ⟨col, chan, by rw [hk, of_decide_eq_true h6]⟩
  case h_2 => cases h6

/-- COUNT has 6 frames, played once, 400 ms apart (R131, R137). -/
theorem conforms_count_shape {c : Cfg} (h : conforms c = true) :
    (seqDesc c seqCount).nframes = 6 ∧ (seqDesc c seqCount).repeats = 1 ∧ (seqDesc c seqCount).delayMs = 400 := by
  have hd : c.seq[seqCount.toNat]? = some c.seq[5] := rfl
  have hs := conforms_shape h hd rfl
  simp only [shapeFits, agrees, Option.all_some, Bool.and_eq_true, beq_iff_eq] at hs
  obtain ⟨⟨⟨hf, hr⟩, hdly⟩, -⟩ := hs
  rw [seqDesc_named hd]
  exact ⟨hf.symm, hr.symm, hdly.symm⟩

/-! ### What they add to the trace -/

theorem keyEvents_turnOff {c : Cfg} {k : KeyCode} (h : bindRead c k = .turnOff) :
    keyEvents c k = List.replicate 25 (.emit 0) ++ [.sleep 200] := by
  rw [keyEvents, h, events_turnOff, encodeColor_black]
  rfl

theorem keyEvents_fillSolid {c : Cfg} {k : KeyCode} {col : Color} (h : bindRead c k = .fillSolid col) :
    keyEvents c k = List.replicate 25 (.emit (encodeColor col)) ++ [.sleep 200] := by
  rw [keyEvents, h, events_fillSolid]
  rfl

theorem encodeColor_red_full : encodeColor ⟨1, 0, 0⟩ = 0x00FF0000 := by decide +kernel

theorem encodeColor_white_fifth : encodeColor ⟨1 / 5, 1 / 5, 1 / 5⟩ = 0x33333300 := by
  obtain ⟨-, -, -, -, -, -, -, -, -, -, hwhite, -⟩ := colorWordProperties
  exact hwhite

/-- A handled key has its Action's words, for the hold emits none (R172, R207). -/
theorem emits_keyEvents_length (c : Cfg) (k : KeyCode) :
    (emits (keyEvents c k)).length = 25 * nfr c (bindRead c k) * nrep c (bindRead c k) := by
  simp [keyEvents, actionEmitsItsWordCount c (bindRead c k)]

/-- The waits of a handled key: one between every two frames, then the hold (R170, R207). -/
theorem sleeps_keyEvents (c : Cfg) (k : KeyCode) :
    sleeps (keyEvents c k) =
      List.replicate (nfr c (bindRead c k) * nrep c (bindRead c k) - 1) (dly c (bindRead c k)) ++ [200] := by
  obtain ⟨hsleeps, -⟩ := waitsOnlySeparateFrames c (bindRead c k)
  simp [keyEvents, hsleeps, debounceMs]

/-- Settles O20: three of the fixed bindings fill the frame once with one word, and key `'6'` plays COUNT, whose shape is
fixed too. -/
theorem fixedKeysOfEveryConformingConfiguration : Obligations.FixedKeysOfEveryConformingConfiguration := by
  intro c h
  obtain ⟨hA, hC, hhash⟩ := fixedBindings_fills (conforms_fixedBindings h)
  refine ⟨⟨rfl, hA, keyEvents_turnOff hA⟩, ⟨rfl, hC, ?red⟩, ⟨rfl, hhash, ?white⟩, ?count⟩
  case red => rw [keyEvents_fillSolid hC, encodeColor_red_full]
  case white => rw [keyEvents_fillSolid hhash, encodeColor_white_fifth]
  case count =>
    obtain ⟨col, chan, hk⟩ := fixedBindings_key6 (conforms_fixedBindings h)
    obtain ⟨hf, hr, hd⟩ := conforms_count_shape h
    rw [emits_keyEvents_length, sleeps_keyEvents, hk]
    simp [nfr, nrep, dly, hf, hr, hd, List.replicate]

end Sys2Proof.Machine
end

section
/-! SUPPORT. Edges that only consume their sample, and runs of them; and the statement about the stuck states, settled. -/

namespace Sys2Proof.Machine

/-! ### Edges that change nothing but the input stream -/

/-- The state after `n` edges that only consume their samples. -/
def State.skip (s : State) (n : Nat) : State := { s with inputs := s.inputs.drop n, edge := s.edge + n }

@[simp] theorem skip_zero (s : State) : s.skip 0 = s := rfl

theorem skip_consume (s : State) (n : Nat) : s.consume.skip n = s.skip (n + 1) := by
  simp [State.skip, State.consume, List.drop_tail, Nat.add_assoc, Nat.add_comm 1 n]

/-- Skipped edges leave every word offered in EMIT as it is; the idle word is another draw at each edge. -/
theorem pixData_skip {s : State} (n : Nat) (hp : s.phase = .emit) : pixData (s.skip n) = pixData s := by
  simp [pixData, State.skip, hp]

theorem now_skip (s : State) (n : Nat) : (s.skip n).now = s.inputAt n := by
  simp [State.now, State.inputAt, State.skip]

/-- R254: a stalled edge of EMIT only consumes its sample. -/
theorem step_emit_stalled {s : State} (hi : s.Inv) (hp : s.phase = .emit) (hr : s.now.rst = false)
    (hs : s.now.ready = false) : step s = .next s.consume := by
  have ⟨hcfg, hact, hpix, _⟩ := hi
  rw [step_emit hcfg hact hr hp, emitEdge_stalled hp hpix hs]
  rfl

/-- R176, R207: an edge without a tick only consumes its sample while a wait has ticks to come. -/
theorem step_wait_noTick {s : State} (hw : cfgWf s.cfg = true) (hp : s.phase = .gap ∨ s.phase = .hold)
    (hm : s.tmr ≠ 0) (hr : s.now.rst = false) (ht : s.now.tick = false) : step s = .next s.consume := by
  obtain hp | hp := hp
  · rw [step_gap hw hr hp, waitEdge_noTick _ hm ht]
  · rw [step_hold hw hr hp, waitEdge_noTick _ hm ht]

/-- A run whose every edge only consumes its sample. -/
theorem runSteps_eq_skip {n : Nat} {s : State} (h : ∀ i, i < n → step (s.skip i) = .next (s.skip i).consume) :
    runSteps n s = .next (s.skip n) := by
  induction n generalizing s with
  | zero => rfl
  | succ n ih =>
    have hfirst : step s = .next s.consume := h 0 n.succ_pos
    have hrest : ∀ i, i < n → step (s.consume.skip i) = .next (s.consume.skip i).consume := fun i hin => by
      rw [skip_consume]
      exact h (i + 1) (Nat.succ_lt_succ hin)
    rw [runSteps_succ n hfirst, ih hrest, skip_consume]

/-- Settles O47: the invariant and the phase speak of nothing that a skipped edge changes, so every edge of the run is
again a stalled offer, or an edge without a tick in the same wait. -/
theorem stuckWithoutReadyOrTick : Obligations.StuckWithoutReadyOrTick := by
  intro s n hi hn
  have ⟨hcfg, _⟩ := hi
  refine ⟨fun hp hready => ⟨s.skip n, runSteps_eq_skip fun i hin => ?emit, hp, rfl, pixData_skip n hp⟩,
    fun hp hm htick => ⟨s.skip n, runSteps_eq_skip fun i hin => ?wait, rfl, rfl, rfl⟩⟩
  case emit =>
    have hinv : (s.skip i).Inv := hi
    exact step_emit_stalled hinv hp (now_skip s i ▸ hn i hin) (now_skip s i ▸ hready i hin)
  case wait => exact step_wait_noTick hcfg hp hm (now_skip s i ▸ hn i hin) (now_skip s i ▸ htick i hin)

end Sys2Proof.Machine
end

section
/-! SUPPORT. The reset edge as an equation of the step, and the LED string it leaves; and the statement about it,
settled. -/

namespace Sys2Proof.Machine

/-- R300: `rst` alone decides the edge, whatever the phase and the other inputs. -/
theorem step_reset {s : State} (hw : cfgWf s.cfg = true) (hr : s.now.rst = true) :
    step s = .next (resetEdge s).consume := by
  simp [step, hw, hr]

/-- R302: a reset that cuts no frame short leaves the LED string as it was. -/
theorem dispAfterReset_wholeFrames {s : State} (h : ¬(s.phase = .emit ∧ s.pix ≠ 0)) : dispAfterReset s = s.disp := by
  simp only [dispAfterReset, inMidFrame, h, decide_false, Bool.false_eq_true, if_false]

/-- Settles O26: the edge is `resetEdge`, whose registers, trace and configuration are read off, and which draws a new LED
string only in mid-frame. -/
theorem resetOverridesEveryStep : Obligations.ResetOverridesEveryStep := fun s hw hr =>
  ⟨(resetEdge s).consume, step_reset hw hr, rfl, rfl, rfl, rfl, rfl, rfl, rfl, rfl, dispAfterReset_wholeFrames⟩

end Sys2Proof.Machine
end

section
/-! SUPPORT. The fields of the encoded words read back, format by format; and the statements about the encodings,
settled. -/

namespace Sys2Proof

/-! ### KEY (R81, R90) -/

theorem encode_keyInstr (k : KeyCode) : encode (keyInstr k) = ⟨.key, (encodeKey k).toNat⟩ := by cases k <;> rfl

/-- Bit 4 says that a key is shown, and the code wires below it say which one. -/
theorem decodeKey_of_valid {w : BitVec 5} {k : KeyCode} (hv : w.getLsbD 4 = true) (hc : w.extractLsb' 0 4 = k.code) :
    decodeKey w = keyInstr k := by
  rw [decodeKey, if_pos hv, hc, KeyCode.ofCode_code]

theorem decodeKey_of_invalid {w : BitVec 5} (hv : w.getLsbD 4 = false) :
    decodeKey w = .nokey (w.extractLsb' 0 4) := by
  rw [decodeKey, hv]
  rfl

theorem decodeKey_encodeKey (k : KeyCode) : decodeKey (encodeKey k) = keyInstr k := by cases k <;> rfl

theorem decodeKey_nokey (c : BitVec 4) : decodeKey ((0 : BitVec 1) ++ c) = .nokey c := by
  revert c
  decide

/-- The five wires are bit 4 above the four code wires. -/
theorem keyWord_eq_append (w : BitVec 5) : BitVec.ofBool (w.getLsbD 4) ++ w.extractLsb' 0 4 = w := by
  revert w
  decide

/-- A value of the key port encodes back to itself, a key from its code and no key from its ignored wires (R81,
R226). -/
theorem encode_decodeKey (w : BitVec 5) : encode (decodeKey w) = ⟨.key, w.toNat⟩ := by
  have hw := keyWord_eq_append w
  cases hv : w.getLsbD 4 <;> rw [hv] at hw
  · rw [decodeKey_of_invalid hv]
    exact congrArg (Encoded.mk .key ·.toNat) hw
  · rw [decodeKey_of_valid hv (KeyCode.code_ofCode _).symm, encode_keyInstr, encodeKey, KeyCode.code_ofCode]
    exact congrArg (Encoded.mk .key ·.toNat) hw

/-- Settles O2: bit 4 alone chooses between a key and no key, and either keeps the code wires. -/
theorem keyPortValuesAreCommands : Obligations.KeyPortValuesAreCommands := fun w =>
  ⟨decodeKey_of_invalid, fun _ hv hc => decodeKey_of_valid hv hc, encode_decodeKey w⟩

/-! ### ACT (R84) -/

/-- The bits of an ACT word, field by field from the high end. -/
theorem getLsbD_encodeAct (kind : BitVec 2) (seq : SeqId) (mode : BlendMode) (chan : Chan) (cr cg cb : Code) (i : Nat) :
    (encodeAct kind seq mode chan cr cg cb).getLsbD i =
      if 26 ≤ i then cb.getLsbD (i - 26)
      else if 18 ≤ i then cg.getLsbD (i - 18)
      else if 10 ≤ i then cr.getLsbD (i - 10)
      else if 8 ≤ i then chan.tag.getLsbD (i - 8)
      else if 6 ≤ i then mode.tag.getLsbD (i - 6)
      else if 2 ≤ i then seq.getLsbD (i - 2)
      else kind.getLsbD i := by
  simp only [encodeAct, BitVec.getLsbD_or, BitVec.getLsbD_shiftLeft, BitVec.getLsbD_setWidth]
  grind

/-- Each field of an ACT word holds what was put there. -/
theorem encodeAct_fields (kind : BitVec 2) (seq : SeqId) (mode : BlendMode) (chan : Chan) (cr cg cb : Code) :
    let w := encodeAct kind seq mode chan cr cg cb
    w.extractLsb' 0 2 = kind ∧ w.extractLsb' 2 4 = seq ∧ w.extractLsb' 6 2 = mode.tag ∧ w.extractLsb' 8 2 = chan.tag ∧
      w.extractLsb' 10 8 = cr ∧ w.extractLsb' 18 8 = cg ∧ w.extractLsb' 26 8 = cb := by
  refine ⟨?_, ?_, ?_, ?_, ?_, ?_, ?_⟩ <;> ext i hi <;>
    simp only [BitVec.getElem_extractLsb', getLsbD_encodeAct] <;> grind

theorem decodeAct_noop : decodeAct (encodeAct 0 0 .solidFill .r 0 0 0) = .ok .actNoop := rfl

theorem decodeAct_turnoff : decodeAct (encodeAct 1 0 .solidFill .r 0 0 0) = .ok .actTurnoff := rfl

theorem decodeAct_fillsolid (cr cg cb : Code) :
    decodeAct (encodeAct 2 0 .solidFill .r cr cg cb) = .ok (.actFillsolid cr cg cb) := by
  obtain ⟨hkind, -, -, -, hcr, hcg, hcb⟩ := encodeAct_fields 2 0 .solidFill .r cr cg cb
  rw [decodeAct, hkind, hcr, hcg, hcb]
  rfl

/-- A word of kind 3 is a PlaySequence, unless a field that it reads holds a reserved value (R84, R91(e)). -/
theorem decodeAct_of_kind {w : BitVec 34} (h : w.extractLsb' 0 2 = 3) :
    decodeAct w =
      if SeqId.named (w.extractLsb' 2 4) = false then .error .reservedSeqId
      else if chanFits (BlendMode.ofTag (w.extractLsb' 6 2)) (Chan.ofTag (w.extractLsb' 8 2)) = false then
        .error .reservedChannel
      else .ok (.actPlaysequence (w.extractLsb' 2 4) (BlendMode.ofTag (w.extractLsb' 6 2))
        (Chan.ofTag (w.extractLsb' 8 2)) (w.extractLsb' 10 8) (w.extractLsb' 18 8) (w.extractLsb' 26 8)) := by
  simp [decodeAct, h]

theorem decodeAct_playsequence {seq : SeqId} {mode : BlendMode} {chan : Chan} (hs : seq.named = true)
    (hc : chanFits mode chan = true) (cr cg cb : Code) :
    decodeAct (encodeAct 3 seq mode chan cr cg cb) = .ok (.actPlaysequence seq mode chan cr cg cb) := by
  obtain ⟨hkind, hseq, hmode, hchan, hcr, hcg, hcb⟩ := encodeAct_fields 3 seq mode chan cr cg cb
  rw [decodeAct_of_kind hkind, hseq, hmode, hchan, hcr, hcg, hcb]
  simp [hs, hc]

/-! ### CW (R83) -/

theorem decodeWord_packWord (g r b : Code) : decodeWord (packWord g r b) = .ok (.colorword g r b) := by
  simp [decodeWord]

/-! ### Every format -/

theorem decode_key (w : BitVec 5) : decode .key w.toNat = .ok (decodeKey w) := by
  simp [decode, Format.width, w.isLt]

theorem decode_act (w : BitVec 34) : decode .act w.toNat = decodeAct w := by
  simp [decode, Format.width, w.isLt]

theorem decode_mode (m : BlendMode) : decode .mode m.tag.toNat = .ok (modeRow m) := by cases m <;> rfl

theorem decode_chan (c : Chan) : decode .chan c.tag.toNat = .ok (chanRow c) := by cases c <;> rfl

theorem decode_cw (w : Word) : decode .cw w.toNat = decodeWord w := by
  simp [decode, Format.width, w.isLt]

theorem decode_encode_keyInstr (k : KeyCode) :
    decode (encode (keyInstr k)).format (encode (keyInstr k)).bits = .ok (keyInstr k) := by
  rw [encode_keyInstr, decode_key, decodeKey_encodeKey]

/-- Settles O1: every format reads back the fields it was written from, and a well-formed PlaySequence holds no reserved
value that it reads. -/
theorem decodeOfEncodeIsTheInstruction : Obligations.DecodeOfEncodeIsTheInstruction := by
  intro i hi
  cases i with
  | nokey c => exact (decode_key _).trans (congrArg _ (decodeKey_nokey c))
  | key0 => exact decode_encode_keyInstr .k0
  | key1 => exact decode_encode_keyInstr .k1
  | key2 => exact decode_encode_keyInstr .k2
  | key3 => exact decode_encode_keyInstr .k3
  | key4 => exact decode_encode_keyInstr .k4
  | key5 => exact decode_encode_keyInstr .k5
  | key6 => exact decode_encode_keyInstr .k6
  | key7 => exact decode_encode_keyInstr .k7
  | key8 => exact decode_encode_keyInstr .k8
  | key9 => exact decode_encode_keyInstr .k9
  | keyA => exact decode_encode_keyInstr .kA
  | keyB => exact decode_encode_keyInstr .kB
  | keyC => exact decode_encode_keyInstr .kC
  | keyD => exact decode_encode_keyInstr .kD
  | keyStar => exact decode_encode_keyInstr .star
  | keyHash => exact decode_encode_keyInstr .hash
  | actNoop => exact (decode_act _).trans decodeAct_noop
  | actTurnoff => exact (decode_act _).trans decodeAct_turnoff
  | actFillsolid cr cg cb => exact (decode_act _).trans (decodeAct_fillsolid cr cg cb)
  | actPlaysequence seq mode chan cr cg cb =>
    obtain ⟨hs, hc⟩ : seq.named = true ∧ chanFits mode chan = true := by simpa [Instr.wf] using hi
    exact (decode_act _).trans (decodeAct_playsequence hs hc cr cg cb)
  | modeSolidfill => exact decode_mode .solidFill
  | modeUniformcolor => exact decode_mode .uniformColor
  | modeWeightedbicolor => exact decode_mode .weightedBicolor
  | modeDirect => exact decode_mode .direct
  | chanR => exact decode_chan .r
  | chanG => exact decode_chan .g
  | chanB => exact decode_chan .b
  | chanReserved => simp [Instr.wf] at hi
  | colorword g r b => exact (decode_cw _).trans (decodeWord_packWord g r b)

/-- Settles O3: each written word is within its format's width and its fields are literals. -/
theorem writtenWordsDecode : Obligations.WrittenWordsDecode := by
  unfold Obligations.WrittenWordsDecode
  decide

/-- Settles O4: the decoder looks at the SeqId before the channel, and at a color word's low byte alone. -/
theorem reservedWordsAreRejected : Obligations.ReservedWordsAreRejected := by
  refine ⟨fun w hk hs => ?seqId, fun w hk hs hm hc => ?channel, fun w hw => ?lowByte⟩
  case seqId =>
    have hn : SeqId.named (w.extractLsb' 2 4) = false := decide_eq_false (Nat.not_lt.mpr hs)
    rw [decode_act, decodeAct_of_kind hk, if_pos hn]
  case channel =>
    have hn : SeqId.named (w.extractLsb' 2 4) = true := decide_eq_true hs
    rw [decode_act, decodeAct_of_kind hk, hn, hm, hc]
    rfl
  case lowByte => rw [decode_cw, decodeWord, if_neg hw]

/-! ### The SEQ word (R87) -/

/-- The bits of a descriptor's part of a SEQ word, field by field from the high end. -/
theorem getLsbD_seqDesc_encode (d : SeqDesc) (i : Nat) :
    d.encode.getLsbD i =
      if 32 ≤ i then d.kind.bit.getLsbD (i - 32)
      else if 16 ≤ i then (BitVec.ofNat 16 d.delayMs).getLsbD (i - 16)
      else if 8 ≤ i then (BitVec.ofNat 8 d.repeats).getLsbD (i - 8)
      else (BitVec.ofNat 8 d.nframes).getLsbD i := by
  simp only [SeqDesc.encode, BitVec.getLsbD_or, BitVec.getLsbD_shiftLeft, BitVec.getLsbD_setWidth]
  grind

/-- Each field of a descriptor's part of a SEQ word holds what was put there. -/
theorem seqDesc_encode_fields (d : SeqDesc) :
    d.encode.extractLsb' 0 8 = BitVec.ofNat 8 d.nframes ∧ d.encode.extractLsb' 8 8 = BitVec.ofNat 8 d.repeats ∧
      d.encode.extractLsb' 16 16 = BitVec.ofNat 16 d.delayMs ∧ d.encode.extractLsb' 32 1 = d.kind.bit := by
  refine ⟨?_, ?_, ?_, ?_⟩ <;> ext i hi <;> simp only [BitVec.getElem_extractLsb', getLsbD_seqDesc_encode] <;> grind

theorem seqDesc_decode_encode {d : SeqDesc} (hf : d.nframes ≤ 255) (hr : d.repeats ≤ 255) (hd : d.delayMs ≤ 65535) :
    SeqDesc.decode d.encode = d := by
  obtain ⟨hnframes, hrepeats, hdelay, hkind⟩ := seqDesc_encode_fields d
  simp only [SeqDesc.decode, hnframes, hrepeats, hdelay, hkind, BitVec.toNat_ofNat, EntryKind.ofBit_bit]
  rw [Nat.mod_eq_of_lt (by omega), Nat.mod_eq_of_lt (by omega), Nat.mod_eq_of_lt (by omega)]

/-- The two parts of a SEQ word hold the descriptor and the base address. -/
theorem seqEntry_encode_fields (e : SeqEntry) :
    e.encode.extractLsb' 0 33 = e.desc.encode ∧ e.encode.extractLsb' 33 17 = BitVec.ofNat 17 e.base := by
  constructor <;> ext i hi <;>
    simp only [BitVec.getElem_extractLsb', SeqEntry.encode, BitVec.getLsbD_or, BitVec.getLsbD_shiftLeft,
      BitVec.getLsbD_setWidth] <;> grind

/-- Settles O5: the two parts of the word read back, each counter and the base address within its field. -/
theorem sequenceWordReadsBack : Obligations.SequenceWordReadsBack := by
  intro e hf hr hd hb
  obtain ⟨hdesc, hbase⟩ := seqEntry_encode_fields e
  rw [SeqEntry.decode, hdesc, hbase, seqDesc_decode_encode hf hr hd, BitVec.toNat_ofNat, Nat.mod_eq_of_lt hb]

end Sys2Proof

namespace Sys2Proof.Machine

/-- Settles O10: each code is the code of its intensity. -/
theorem descriptorColourHasItsCodes : Obligations.DescriptorColourHasItsCodes := encodeColor_colorOfCodes

end Sys2Proof.Machine
end

section
/-! SUPPORT. Every edge keeps the invariant, and from a state that meets it there always is an edge; and the statements
about the reset state, the step and the invariant, settled. -/

namespace Sys2Proof.Machine

/-! ### The reset state (R36, R37, R146, R149) -/

/-- REFCFG is well-formed: that depends on the lengths and kinds of its frames alone, never on their free contents. -/
theorem cfgWf_refCfg : cfgWf refCfg = true := by decide +kernel

/-- Settles O13: beside its well-formedness, conformance reads the shapes, the four solid frames and the bindings, all
of which REFCFG gives. -/
theorem referenceConfigurationConforms : Obligations.ReferenceConfigurationConforms :=
  ⟨cfgWf_refCfg, by decide +kernel⟩

/-- Settles O27: the registers, the flag and the wires are read off the reset state. -/
theorem resetStateIsIdle : Obligations.ResetStateIsIdle := ⟨rfl, rfl, rfl, rfl, rfl, rfl, rfl, rfl, rfl, rfl⟩

/-- Settles O28: REFCFG is well-formed, NoOp needs nothing, and in POLL the counters and the timer are 0. -/
theorem resetStateMeetsTheInvariant : Obligations.ResetStateMeetsTheInvariant := by
  simp [Obligations.ResetStateMeetsTheInvariant, State.Inv, State.reset, cfgWf_refCfg, actionWf]

/-! ### The step of each phase (R201, R202, R174 to R176, R207) -/

theorem step_poll {s : State} (hw : cfgWf s.cfg = true) (hr : s.now.rst = false) (hp : s.phase = .poll) :
    step s = endEdge (exec (decodeKey (portCommand s.now)) s) := by
  simp [step, fetch, hw, hr, hp]

theorem step_emit_modeRow {s : State} (hw : cfgWf s.cfg = true) (hr : s.now.rst = false) (hp : s.phase = .emit) :
    step s = endEdge (exec (modeRow (actionMode s.act)) s) := by
  simp [step, fetch, hw, hr, hp]

/-- A polled key is dispatched (R202). -/
theorem step_poll_key {s : State} {k : KeyCode} (hw : cfgWf s.cfg = true) (hr : s.now.rst = false)
    (hp : s.phase = .poll) (hk : pollKey s.now = some k) :
    step s = .next (dispatch (bindRead s.cfg k) s).consume := by
  rw [step_poll hw hr hp, exec_portCommand, hk]
  exact congrArg endEdge (pressKey_poll hp)

/-- A key word encodes one well-formed instruction only. -/
theorem decodeKey_of_encode {i : Instr} {w : BitVec 5} (hi : i.wf = true) (h : encode i = ⟨.key, w.toNat⟩) :
    decodeKey w = i := by
  have hd := decodeOfEncodeIsTheInstruction i hi
  rw [h, decode_key] at hd
  exact Except.ok.inj hd

/-- Settles O23: the phase alone chooses the edge, and the key port's bits name one well-formed instruction. -/
theorem stepRunsTheFetchedInstruction : Obligations.StepRunsTheFetchedInstruction := fun _ hw hr =>
  ⟨fun _ hp hi he => by rw [step_poll hw hr hp, decodeKey_of_encode hi he], step_poll hw hr, step_emit_modeRow hw hr,
    step_gap hw hr, step_hold hw hr⟩

/-- Settles O29: every step is an edge, and every edge keeps the invariant. -/
theorem stepKeepsTheInvariant : Obligations.StepKeepsTheInvariant := fun _ _ hi h => (edge_of_step h).inv hi

/-- Settles O30: in every phase the edge's operation completes, in EMIT because `pix` is at most 24 and the latched
Action's channel is not the reserved one. -/
theorem invariantStatesAlwaysStep : Obligations.InvariantStatesAlwaysStep := by
  intro s hi
  have ⟨hcfg, hact, hpix, _⟩ := hi
  cases hr : s.now.rst with
  | true => exact ⟨_, step_reset hcfg hr⟩
  | false =>
    cases hp : s.phase with
    | poll =>
      cases hk : pollKey s.now with
      | none => exact ⟨_, step_poll_noKey hcfg hr hp hk⟩
      | some k => exact ⟨_, step_poll_key hcfg hr hp hk⟩
    | emit =>
      cases hs : s.now.ready with
      | true => exact ⟨_, (step_emit hcfg hact hr hp).trans (congrArg endEdge (emitEdge_ready hp hpix hs))⟩
      | false => exact ⟨_, step_emit_stalled hi hp hr hs⟩
    | gap => exact ⟨_, step_gap hcfg hr hp⟩
    | hold => exact ⟨_, step_hold hcfg hr hp⟩

/-- Settles O44: the stalled edge only consumes its sample, and the offered word does not read the samples. -/
theorem stalledOfferIsStable : Obligations.StalledOfferIsStable := by
  intro s hi hp hr hs
  refine ⟨s.consume, step_emit_stalled hi hp hr hs, ?valid, pixData_skip 1 hp, rfl⟩
  case valid => simp [pixValid, hp]

/-! ### What an edge writes (R25, R12, R34) -/

/-- Settles O50: of the edges only the reset and the dispatch write `act`. -/
theorem onlyDispatchAndResetWriteAct : Obligations.OnlyDispatchAndResetWriteAct := by
  intro s t h hact
  cases edge_of_step h with
  | reset hr => exact .inl ⟨hr, rfl⟩
  | key hr hp k hk => exact .inr ⟨hr, hp, k, hk, (dispatch_frame _ _).1⟩
  | noKey | stall => exact absurd rfl hact
  | send => exact absurd (accept_frame _ _).1 hact
  | gap => exact absurd (waitEdge_frame _ _).1 hact
  | hold => exact absurd (waitEdge_frame _ _).1 hact

/-- A dispatch appends nothing, or the wait of the hold (R202, R203). -/
theorem dispatch_trace (a : Action) (s : State) :
    (dispatch a s).trace = s.trace ∨ (dispatch a s).trace = s.trace ++ [.sleep debounceMs] := by
  by_cases h : words s.cfg a = 0
  · exact .inr (by rw [dispatch_empty h]; rfl)
  · exact .inl (by rw [dispatch_plays h])

/-- An accepted word is appended, and at a frame's end one wait after it (R174, R175). -/
theorem accept_trace (w : Word) (s : State) :
    (accept w s).trace = s.trace ++ [.emit w] ∨ ∃ d, (accept w s).trace = s.trace ++ [.emit w, .sleep d] := by
  obtain ⟨-, h⟩ | ⟨-, -, h⟩ | ⟨-, -, h⟩ := accept_cases w s <;> rw [h]
  · exact .inl rfl
  · exact .inr ⟨debounceMs, by simp⟩
  · exact .inr ⟨dly s.cfg s.act, by simp [nextFrame_frame]⟩

theorem waitEdge_trace (p : Phase) (s : State) : (waitEdge p s).trace = s.trace := by simp [waitEdge_frame]

/-- All that an edge can append: nothing, the wait of the hold, or a word and perhaps a wait. -/
theorem Edge.trace_cases {s t : State} (h : Edge s t) :
    t.trace = s.trace ∨
    (s.phase = .poll ∧ t.trace = s.trace ++ [.sleep debounceMs]) ∨
    (s.phase = .emit ∧ s.now.ready = true ∧ s.now.rst = false ∧
      ∃ w, t.trace = s.trace ++ [.emit w] ∨ ∃ d, t.trace = s.trace ++ [.emit w, .sleep d]) := by
  cases h with
  | reset | noKey | stall => exact .inl rfl
  | key _ hp k => exact (dispatch_trace _ s).imp id fun h => .inl ⟨hp, h⟩
  | send hr hp _ hs => exact .inr (.inr ⟨hp, hs, hr, _, accept_trace _ s⟩)
  | gap => exact .inl (waitEdge_trace .emit s)
  | hold => exact .inl (waitEdge_trace .poll s)

/-- Settles O51: the events that an edge appends are one of the four lists, and which one says where it was made. -/
theorem stepsOnlyAppendToTheTrace : Obligations.StepsOnlyAppendToTheTrace := by
  intro s t h
  obtain ht | ⟨hp, ht⟩ | ⟨hp, hs, hr, w, ht | ⟨d, ht⟩⟩ := (edge_of_step h).trace_cases
  · exact ⟨[], by simp [ht], .inl rfl, fun h => absurd rfl h, by simp⟩
  · exact ⟨_, ht, .inr (.inr (.inr rfl)), fun h => absurd rfl h, fun _ => hp⟩
  · exact ⟨_, ht, .inr (.inl ⟨w, rfl⟩), fun _ => ⟨hp, hs, hr⟩, by simp⟩
  · exact ⟨_, ht, .inr (.inr (.inl ⟨w, d, rfl⟩)), fun _ => ⟨hp, hs, hr⟩, by simp⟩

/-! ### Whole frames (R59, R171) -/

/-- The words that the frame in progress has in the trace (R59). -/
def wordsInFrame (s : State) : Nat := if s.phase = .emit then s.pix.toNat else 0

theorem wholeFrames_iff (s : State) :
    s.WholeFrames ↔ ∃ n, wordsSinceSleep 0 s.trace = some n ∧ n % numPix = wordsInFrame s := Iff.rfl

/-- Only the trace and the words of the frame in progress matter. -/
theorem wholeFrames_of_eq {s t : State} (h : s.WholeFrames) (htrace : t.trace = s.trace)
    (hwords : wordsInFrame t = wordsInFrame s) : t.WholeFrames := by
  rwa [wholeFrames_iff, htrace, hwords]

/-- One more word of the frame. -/
theorem wholeFrames_word {s t : State} {w : Word} (h : s.WholeFrames) (htrace : t.trace = s.trace ++ [.emit w])
    (hwords : wordsInFrame t = wordsInFrame s + 1) (hlt : wordsInFrame s < lastPix) : t.WholeFrames := by
  obtain ⟨n, hn, hmod⟩ := (wholeFrames_iff s).mp h
  refine (wholeFrames_iff t).mpr ⟨n + 1, ?_, ?_⟩
  · simp [htrace, wordsSinceSleep_append, hn, wordsSinceSleep]
  · unfold numPix lastPix at *
    omega

/-- A wait between frames. -/
theorem wholeFrames_wait {s t : State} {d : Nat} (h : s.WholeFrames) (htrace : t.trace = s.trace ++ [.sleep d])
    (hs : wordsInFrame s = 0) (ht : wordsInFrame t = 0) : t.WholeFrames := by
  obtain ⟨n, hn, hmod⟩ := (wholeFrames_iff s).mp h
  refine (wholeFrames_iff t).mpr ⟨0, ?_, ht.symm⟩
  simp [htrace, wordsSinceSleep_append, hn, wordsSinceSleep, hmod, hs]

/-- The last word of a frame and the wait after it. -/
theorem wholeFrames_lastWord {s t : State} {w : Word} {d : Nat} (h : s.WholeFrames)
    (htrace : t.trace = s.trace ++ [.emit w, .sleep d]) (hs : wordsInFrame s = lastPix) (ht : wordsInFrame t = 0) :
    t.WholeFrames := by
  obtain ⟨n, hn, hmod⟩ := (wholeFrames_iff s).mp h
  have hfull : (n + 1) % numPix = 0 := by
    unfold numPix lastPix at *
    omega
  refine (wholeFrames_iff t).mpr ⟨0, ?_, ht.symm⟩
  simp [htrace, wordsSinceSleep_append, hn, wordsSinceSleep, hfull]

theorem dispatch_wholeFrames {s : State} (a : Action) (hp : s.phase = .poll) (h : s.WholeFrames) :
    (dispatch a s).WholeFrames := by
  by_cases hz : words s.cfg a = 0
  · rw [dispatch_empty hz]
    exact wholeFrames_wait h rfl (by simp [wordsInFrame, hp]) rfl
  · rw [dispatch_plays hz]
    exact wholeFrames_of_eq h rfl (by simp [wordsInFrame, hp])

theorem accept_wholeFrames {w : Word} {s : State} (hi : s.Inv) (hp : s.phase = .emit) (h : s.WholeFrames) :
    (accept w s).WholeFrames := by
  have ⟨_, _, hpix, _⟩ := hi
  have hs : wordsInFrame s = s.pix.toNat := if_pos hp
  obtain ⟨hx, he⟩ | ⟨hx, hl, he⟩ | ⟨hx, hl, he⟩ := accept_cases w s <;> rw [he]
  · have hn : (s.pix + 1).toNat = s.pix.toNat + 1 := toNat_add_one (by unfold lastPix at hx; omega)
    exact wholeFrames_word h rfl (by simp only [wordsInFrame, hp, if_true, hn]) (hs ▸ hx)
  · exact wholeFrames_lastWord (w := w) (d := debounceMs) h (by simp) (by omega) rfl
  · exact wholeFrames_lastWord (w := w) (d := dly s.cfg s.act) h (by simp [nextFrame_frame]) (by omega) rfl

/-- Leaving the gap is the beginning of a frame: `pix` is 0 there (R37, R176). -/
theorem gapEdge_wholeFrames {s : State} (hi : s.Inv) (hp : s.phase = .gap) (h : s.WholeFrames) :
    (gapEdge s).WholeFrames := by
  obtain ⟨-, -, -, -, hgap, -⟩ := hi
  obtain ⟨hpix, -⟩ := hgap hp
  refine wholeFrames_of_eq h (waitEdge_trace _ s) ?_
  unfold gapEdge
  obtain ⟨-, he⟩ | ⟨-, -, he⟩ | ⟨-, -, he⟩ := waitEdge_cases .emit s <;> simp [he, wordsInFrame, hp, hpix]

theorem holdEdge_wholeFrames {s : State} (hp : s.phase = .hold) (h : s.WholeFrames) : (holdEdge s).WholeFrames := by
  refine wholeFrames_of_eq h (waitEdge_trace _ s) ?_
  unfold holdEdge
  obtain ⟨-, he⟩ | ⟨-, -, he⟩ | ⟨-, -, he⟩ := waitEdge_cases .poll s <;> simp [he, wordsInFrame, hp]

theorem consume_wholeFrames {s : State} (h : s.WholeFrames) : s.consume.WholeFrames := h

/-- Settles O52: the trace and the count of the frame's words grow together, and a wait is appended only where the count
is 0 or has just become 25. -/
theorem stepKeepsFramesWhole : Obligations.StepKeepsFramesWhole := by
  intro s t hi hw hr h
  cases edge_of_step h with
  | reset hrst => simp [hr] at hrst
  | noKey | stall => exact consume_wholeFrames hw
  | key _ hp k => exact consume_wholeFrames (dispatch_wholeFrames _ hp hw)
  | send _ hp => exact consume_wholeFrames (accept_wholeFrames hi hp hw)
  | gap _ hp => exact consume_wholeFrames (gapEdge_wholeFrames hi hp hw)
  | hold _ hp => exact consume_wholeFrames (holdEdge_wholeFrames hp hw)

end Sys2Proof.Machine
end

section
/-! SUPPORT. What the rows of the table do, one lemma for each kind of row: the keys and descriptors, and the rows that
offer a word; and the statements about them, settled. -/

namespace Sys2Proof.Machine

/-! ### Action descriptors (R202 to R206, R277) -/

theorem runAction_poll {a : Action} {s : State} (hp : s.phase = .poll) (ha : actionWf s.cfg a = true) :
    runAction a s = .next (dispatch a s) := by
  simp [runAction, hp, ha]

theorem runAction_illFormed {a : Action} {s : State} (hp : s.phase = .poll) (ha : actionWf s.cfg a = false) :
    runAction a s = .refused .illFormedConfig := by
  simp [runAction, hp, ha]

theorem runAction_busy {a : Action} {s : State} (hp : s.phase ≠ .poll) : runAction a s = .next s := by
  simp [runAction, hp]

theorem step_illFormed {s : State} (hw : cfgWf s.cfg = false) : step s = .refused .illFormedConfig := by
  simp [step, hw]

/-- Settles O31: the step looks at the configuration first, and a descriptor in POLL at its own well-formedness. -/
theorem illFormedConfigurationIsRefused : Obligations.IllFormedConfigurationIsRefused :=
  ⟨fun _ hw => step_illFormed hw, fun _ _ _ _ _ _ _ hp ha => runAction_illFormed hp ha⟩

/-- Settles O36: a descriptor is `runAction` of its Action; NoOp has no word, the fills have 25, and a play has what its
sequence gives it. -/
theorem descriptorsDispatchTheirAction : Obligations.DescriptorsDispatchTheirAction := by
  refine ⟨fun s hp => ⟨?noOp, ?turnOff, fun cr cg cb => ?fill, fun seq mode chan cr cg cb ha => ?play⟩,
    fun s hp => ⟨runAction_busy hp, runAction_busy hp, fun _ _ _ => runAction_busy hp,
      fun _ _ _ _ _ _ => runAction_busy hp⟩⟩
  case noOp => exact runAction_poll hp rfl
  case turnOff => exact (runAction_poll hp rfl).trans (congrArg _ (dispatch_plays (by simp [words, numPix, nfr, nrep])))
  case fill => exact (runAction_poll hp rfl).trans (congrArg _ (dispatch_plays (by simp [words, numPix, nfr, nrep])))
  case play => exact runAction_poll hp ha

/-! ### Keys and descriptors together -/

/-- Every KEY and ACT row does nothing, presses its key or runs its Action. -/
theorem exec_keyOrAct {i : Instr} (hf : (encode i).format = .key ∨ (encode i).format = .act) (s : State) :
    exec i s = .next s ∨ (∃ k, exec i s = pressKey k s) ∨ ∃ a, exec i s = runAction a s := by
  cases i with
  | nokey => exact .inl rfl
  | key0 | key1 | key2 | key3 | key4 | key5 | key6 | key7 | key8 | key9 | keyA | keyB | keyC | keyD | keyStar
  | keyHash => exact .inr (.inl ⟨_, rfl⟩)
  | actNoop | actTurnoff | actFillsolid | actPlaysequence => exact .inr (.inr ⟨_, rfl⟩)
  | modeSolidfill | modeUniformcolor | modeWeightedbicolor | modeDirect | chanR | chanG | chanB | chanReserved
  | colorword => simp [encode] at hf

/-- A KEY or ACT row that answers a next state has done nothing, or in POLL dispatched an Action. -/
theorem exec_keyOrAct_cases {i : Instr} {s t : State} (hf : (encode i).format = .key ∨ (encode i).format = .act)
    (h : exec i s = .next t) : t = s ∨ (s.phase = .poll ∧ ∃ a, t = dispatch a s) := by
  obtain he | ⟨k, he⟩ | ⟨a, he⟩ := exec_keyOrAct hf s <;> rw [he] at h
  · exact .inl (Host.Outcome.next.inj h).symm
  · by_cases hp : s.phase = .poll
    · rw [pressKey_poll hp] at h
      exact .inr ⟨hp, _, (Host.Outcome.next.inj h).symm⟩
    · rw [pressKey_busy hp] at h
      exact .inl (Host.Outcome.next.inj h).symm
  · obtain ⟨hp, -, he⟩ | ⟨-, -, he⟩ | ⟨-, he⟩ := runAction_cases a s <;> rw [he] at h
    · exact .inr ⟨hp, _, (Host.Outcome.next.inj h).symm⟩
    · cases h
    · exact .inl (Host.Outcome.next.inj h).symm

/-- The timer and the trace after a dispatch: as before unless it entered the hold (R202, R207). -/
theorem dispatch_tmr_trace (a : Action) (s : State) :
    ((dispatch a s).phase ≠ .hold → (dispatch a s).tmr = s.tmr ∧ (dispatch a s).trace = s.trace) ∧
    ((dispatch a s).phase = .hold → (dispatch a s).tmr = 200 ∧ (dispatch a s).trace = s.trace ++ [.sleep 200]) := by
  by_cases hz : words s.cfg a = 0
  · rw [dispatch_empty hz]
    exact ⟨fun h => absurd rfl h, fun _ => ⟨rfl, rfl⟩⟩
  · rw [dispatch_plays hz]
    exact ⟨fun _ => ⟨rfl, rfl⟩, fun h => by cases h⟩

/-- Settles O37: the row has done nothing, or dispatched an Action, which writes the timer and the trace only on
entering the hold. -/
theorem frameOfKeysAndDescriptors : Obligations.FrameOfKeysAndDescriptors := by
  intro i s t hf h
  have hnokey : (∃ c, i = .nokey c) → t = s := by
    rintro ⟨c, rfl⟩
    exact (Host.Outcome.next.inj h).symm
  obtain rfl | ⟨hp, a, rfl⟩ := exec_keyOrAct_cases hf h
  · refine ⟨rfl, rfl, rfl, rfl, fun _ => rfl, fun _ _ _ => rfl, fun _ => rfl, fun _ => rfl, fun _ => ⟨rfl, rfl⟩,
      fun hp hh => ?_⟩
    simp [hp] at hh
  · obtain ⟨-, hcfg, hin, hedge, hdisp⟩ := dispatch_frame a s
    obtain ⟨hbusy, hhold⟩ := dispatch_tmr_trace a s
    exact ⟨hcfg, hdisp, hin, hedge, fun _ => by rw [hcfg], fun _ _ _ => by rw [hcfg], fun hn => absurd hp hn, hnokey,
      hbusy, fun _ => hhold⟩

/-! ### The rows that offer a word (R163 to R168, R254) -/

theorem emitEdge_outside {w : Word} {s : State} (hp : s.phase ≠ .emit) : emitEdge w s = .next s := by
  simp [emitEdge, hp]

theorem emitEdge_beyond {w : Word} {s : State} (hp : s.phase = .emit) (hx : lastPix < s.pix.toNat) :
    emitEdge w s = .fault .noStepRule := by
  simp [emitEdge, hp, hx]

/-- UniformColor is the EMIT edge of the latched Action's channel, unless that is the reserved one (R164). -/
theorem execModeUniformcolor_eq {s : State} (h : s.phase = .emit → actionChan s.act ≠ .reserved) :
    execModeUniformcolor s = blendEdge .uniformColor (actionChan s.act) s := if_neg fun hr => h hr.1 hr.2

theorem execModeUniformcolor_reserved {s : State} (hp : s.phase = .emit) (hc : actionChan s.act = .reserved) :
    execModeUniformcolor s = .refused .reservedChannel := if_pos ⟨hp, hc⟩

/-- Every row that offers a word is the EMIT edge of that word, save UniformColor with the reserved channel. -/
theorem exec_offered {i : Instr} {w : Word} {s : State} (h : offeredWord i s = some w)
    (hc : i = .modeUniformcolor → s.phase = .emit → actionChan s.act ≠ .reserved) : exec i s = emitEdge w s := by
  cases i with
  | modeUniformcolor =>
    obtain rfl := Option.some.inj h
    exact execModeUniformcolor_eq (hc rfl)
  | modeSolidfill | modeWeightedbicolor | modeDirect | chanR | chanG | chanB | colorword =>
    obtain rfl := Option.some.inj h
    rfl
  | nokey | key0 | key1 | key2 | key3 | key4 | key5 | key6 | key7 | key8 | key9 | keyA | keyB | keyC | keyD | keyStar
  | keyHash | actNoop | actTurnoff | actFillsolid | actPlaysequence | chanReserved => cases h

/-- Settles O41: the tag's row is refused in every state, and the UniformColor row in EMIT when it meets the tag. -/
theorem reservedChannelIsRefused : Obligations.ReservedChannelIsRefused :=
  ⟨fun _ => rfl, fun _ hp hc => execModeUniformcolor_reserved hp hc⟩

/-- Settles O40: the row is the EMIT edge of its word, whose four outcomes the phase, `pix` and the sink decide. -/
theorem everyEmitRowCompletes : Obligations.EveryEmitRowCompletes := by
  intro i w s hw hc
  rw [exec_offered hw fun hi _ => hc hi]
  exact ⟨emitEdge_outside, emitEdge_stalled, emitEdge_ready, emitEdge_beyond⟩

/-- An acceptance inside a frame writes `pix` and the trace alone; at its end one wait follows the word (R174, R175). -/
theorem accept_position (w : Word) (s : State) :
    (s.pix.toNat < 24 → (accept w s).phase = s.phase ∧ (accept w s).rep = s.rep ∧ (accept w s).frm = s.frm ∧
      (accept w s).tmr = s.tmr ∧ (accept w s).disp = s.disp ∧ (accept w s).trace = s.trace ++ [.emit w]) ∧
    (¬ s.pix.toNat < 24 →
      ∃ d, (accept w s).trace = s.trace ++ [.emit w, .sleep d] ∧ (accept w s).pix = 0) := by
  obtain ⟨hx, h⟩ | ⟨hx, -, h⟩ | ⟨hx, -, h⟩ := accept_cases w s <;> rw [h]
  · exact ⟨fun _ => ⟨rfl, rfl, rfl, rfl, rfl, rfl⟩, fun hn => absurd hx hn⟩
  · exact ⟨fun hn => absurd hn hx, fun _ => ⟨debounceMs, by simp, rfl⟩⟩
  · exact ⟨fun hn => absurd hn hx, fun _ => ⟨dly s.cfg s.act, by simp [nextFrame_frame]⟩⟩

/-- A row that offers a word and answers a next state has changed nothing, or had its word accepted. -/
theorem exec_offered_cases {i : Instr} {w : Word} {s t : State} (hw : offeredWord i s = some w)
    (h : exec i s = .next t) :
    (t = s ∧ (s.phase = .emit → s.now.ready = false)) ∨
    (s.phase = .emit ∧ s.now.ready = true ∧ t = accept w s) := by
  have hc : i = .modeUniformcolor → s.phase = .emit → actionChan s.act ≠ .reserved := by
    rintro rfl hp hr
    cases (execModeUniformcolor_reserved hp hr).symm.trans h
  rw [exec_offered hw hc] at h
  obtain ⟨hp, he⟩ | ⟨-, -, he⟩ | ⟨hp, -, hs, he⟩ | ⟨-, -, hs, he⟩ := emitEdge_cases w s <;> rw [he] at h
  · exact .inl ⟨(Host.Outcome.next.inj h).symm, fun he => absurd he hp⟩
  · cases h
  · exact .inr ⟨hp, hs, (Host.Outcome.next.inj h).symm⟩
  · exact .inl ⟨(Host.Outcome.next.inj h).symm, fun _ => hs⟩

/-- Settles O43: either nothing changed, or the row's word was accepted. -/
theorem frameOfEmitEdges : Obligations.FrameOfEmitEdges := by
  intro i w s t hw h
  obtain ⟨rfl, hs⟩ | ⟨hp, hs, rfl⟩ := exec_offered_cases hw h
  · refine ⟨rfl, rfl, rfl, rfl, fun _ => rfl, fun _ _ _ => rfl, fun _ => rfl, fun _ => rfl, fun hp hr => ?_,
      fun hp hr => ?_⟩ <;> simp [hs hp] at hr
  · obtain ⟨hact, hcfg, hin, hedge⟩ := accept_frame w s
    obtain ⟨hmid, hend⟩ := accept_position w s
    exact ⟨hact, hcfg, hin, hedge, fun _ => by rw [hcfg], fun _ _ _ => by rw [hcfg], fun hn => absurd hp hn,
      fun hn => by simp [hs] at hn, fun _ _ => hmid, fun _ _ => hend⟩

/-! ### COLORWORD, and the words of the modes and channels -/

/-- Settles O38: COLORWORD is the EMIT edge of its packed word, and the position's three advances are those of its
acceptance. -/
theorem colorwordTransfersToTheSink : Obligations.ColorwordTransfersToTheSink := by
  intro g r b s
  have hexec : exec (.colorword g r b) s = emitEdge (packWord g r b) s := rfl
  rw [hexec]
  have hlast : s.pix = 24 → s.pix.toNat = 24 := fun hx => congrArg BitVec.toNat hx
  refine ⟨emitEdge_outside, emitEdge_stalled, fun hp hx hs => ?midFrame, fun hp hx hs hl => ?actionEnds,
    fun hp hx hs hl hf => ?nextFrame, fun hp hx hs hl hf => ?nextCycle, emitEdge_beyond⟩
  case midFrame => rw [emitEdge_ready hp hx.le hs, accept_midFrame hx]
  case actionEnds =>
    rw [emitEdge_ready hp (hlast hx).le hs, accept_actionEnds (hlast hx).not_lt hl]
    simp [enterHold, debounceMs]
  case nextFrame =>
    rw [emitEdge_ready hp (hlast hx).le hs, accept_frameEnds (hlast hx).not_lt hl]
    simp [enterGap, nextFrame_eq, hf]
  case nextCycle =>
    rw [emitEdge_ready hp (hlast hx).le hs, accept_frameEnds (hlast hx).not_lt hl]
    simp [enterGap, nextFrame_eq, hf.not_gt]

/-- The word that a blend offers, where the spec defines its colour (R167). -/
theorem blendWord_of_pixColor {mode : BlendMode} {chan : Chan} {c : Cfg} {a : Action} {f i : Nat} {col x : Color}
    {e : Option Entry} (hc : actionColor a = some col) (he : actionEntry c a f i = e)
    (hx : pixColor mode chan col e i = some x) : blendWord mode chan c a f i = encodeColor x := by
  simp [blendWord, blendColor, hc, he, hx]

/-- Settles O39: each row is the EMIT edge of its blend, and the sink is ready. -/
theorem modeAndChannelEdgesTransferTheirBlend : Obligations.ModeAndChannelEdgesTransferTheirBlend := by
  intro s c hp hx hs hc
  have hrow : ∀ {mode chan e x}, actionEntry s.cfg s.act s.frm.toNat s.pix.toNat = e →
      pixColor mode chan c e s.pix.toNat = some x → blendEdge mode chan s = .next (accept (encodeColor x) s) := by
    intro mode chan e x he hpix
    rw [blendEdge, blendWord_of_pixColor hc he hpix, emitEdge_ready hp hx hs]
  have huniform : ∀ {chan e x}, actionEntry s.cfg s.act s.frm.toNat s.pix.toNat = e → chan ≠ .reserved →
      pixColor .uniformColor chan c e s.pix.toNat = some x → actionChan s.act = chan →
      exec .modeUniformcolor s = .next (accept (encodeColor x) s) := by
    rintro chan e x he hn hpix rfl
    exact (execModeUniformcolor_eq fun _ => hn).trans (hrow he hpix)
  refine ⟨hrow rfl rfl, fun e he => ⟨hrow he rfl, hrow he rfl, hrow he rfl, huniform he (by simp) rfl,
    huniform he (by simp) rfl, huniform he (by simp) rfl, hrow he rfl⟩, fun er eg eb he => hrow he rfl⟩

/-- Settles O24: the offered word is the encoding of a colour, hence a color word, and both edges are the EMIT edge that
offers it. -/
theorem emitEdgeTransfersTheOfferedWord : Obligations.EmitEdgeTransfersTheOfferedWord := by
  intro s hw ha hr hp
  have hword : pixData s = word s.cfg s.act s.frm.toNat s.pix.toNat := if_pos hp
  rw [step_emit hw ha hr hp, hword, word, blendWord, encodeColor, decode_cw]
  exact ⟨_, _, _, decodeWord_packWord _ _ _, rfl⟩

end Sys2Proof.Machine
end

section
/-! SUPPORT. The given samples of the input wires: the step reads the first one and passes the others on; and the
statements about what each phase reads, settled. -/

namespace Sys2Proof.Machine

/-! ### The operations pass the given samples on -/

/-- The state with the samples given for the coming edges replaced (R35, log 4). -/
def State.sampled (s : State) (l : List Input) : State := { s with inputs := l }

theorem dispatch_sampled (a : Action) (s : State) (l : List Input) :
    dispatch a (s.sampled l) = (dispatch a s).sampled l := by
  by_cases hz : words s.cfg a = 0
  · rw [dispatch_empty hz, dispatch_empty (s := s.sampled l) hz]
    rfl
  · rw [dispatch_plays hz, dispatch_plays (s := s.sampled l) hz]
    rfl

theorem accept_sampled (w : Word) (s : State) (l : List Input) :
    accept w (s.sampled l) = (accept w s).sampled l := by
  by_cases hx : s.pix.toNat < lastPix
  · rw [accept_midFrame hx, accept_midFrame (s := s.sampled l) hx]
    rfl
  · cases hl : isLast s with
    | true =>
      rw [accept_actionEnds hx hl, accept_actionEnds (s := s.sampled l) hx hl]
      rfl
    | false =>
      rw [accept_frameEnds hx hl, accept_frameEnds (s := s.sampled l) hx hl, nextFrame_eq, nextFrame_eq]
      rfl

/-! ### What an edge reads of its sample (R275) -/

/-- A function on the next state of an outcome. -/
def mapNext (f : State → State) : Host.Outcome State Fault Refusal → Host.Outcome State Fault Refusal
  | .next s => .next (f s)
  | .fault r => .fault r
  | .refused r => .refused r

/-- Two samples agree on what an edge of `s` reads: both on a reset, or on the input of its phase (R275). -/
def ReadAlike (s : State) (i j : Input) : Prop :=
  (i.rst = true ∧ j.rst = true) ∨
  (i.rst = false ∧ j.rst = false ∧
    ((s.phase = .poll ∧ pollKey i = pollKey j) ∨
     (s.phase = .emit ∧ i.ready = j.ready) ∨
     ((s.phase = .gap ∨ s.phase = .hold) ∧ i.tick = j.tick)))

theorem readAlike_refl (s : State) (i : Input) : ReadAlike s i i := by
  unfold ReadAlike
  cases i.rst <;> cases s.phase <;> simp

/-- The key port is not read while the block is busy (R252). -/
theorem readAlike_keys {s : State} (hp : s.phase ≠ .poll) (i : Input) (v : Bool) (code : BitVec 4) :
    ReadAlike s { i with keyValid := v, keyCode := code } i := by
  cases hr : i.rst with
  | true => exact .inl ⟨rfl, hr⟩
  | false =>
    refine .inr ⟨rfl, hr, ?_⟩
    cases hphase : s.phase with
    | poll => exact absurd hphase hp
    | emit => exact .inr (.inl ⟨rfl, rfl⟩)
    | gap => exact .inr (.inr ⟨.inl rfl, rfl⟩)
    | hold => exact .inr (.inr ⟨.inr rfl, rfl⟩)

/-! ### The operations of each phase under two samples -/

theorem exec_modeRow_refused {s : State} (hp : s.phase = .emit)
    (hc : actionMode s.act = .uniformColor ∧ actionChan s.act = .reserved) :
    exec (modeRow (actionMode s.act)) s = .refused .reservedChannel := by
  rw [hc.1]
  exact execModeUniformcolor_reserved hp hc.2

theorem exec_modeRow_offers {s : State} (hp : s.phase = .emit)
    (hc : ¬(actionMode s.act = .uniformColor ∧ actionChan s.act = .reserved)) :
    exec (modeRow (actionMode s.act)) s = emitEdge (word s.cfg s.act s.frm.toNat s.pix.toNat) s :=
  exec_modeRow s.act hp rfl fun hm hr => hc ⟨hm, hr⟩

theorem poll_sampled (s : State) {i j : Input} (h : pollKey i = pollKey j) (l m : List Input) :
    endEdge (exec (decodeKey (portCommand j)) (s.sampled (j :: m))) =
      mapNext (·.sampled m) (endEdge (exec (decodeKey (portCommand i)) (s.sampled (i :: l)))) := by
  rw [exec_portCommand, exec_portCommand, h]
  cases pollKey j with
  | none => rfl
  | some k =>
    by_cases hp : s.phase = .poll
    · simp only [pressKey_poll (s := s.sampled (i :: l)) hp, pressKey_poll (s := s.sampled (j :: m)) hp,
        dispatch_sampled]
      rfl
    · simp only [pressKey_busy (s := s.sampled (i :: l)) hp, pressKey_busy (s := s.sampled (j :: m)) hp]
      rfl

theorem emitEdge_sampled (w : Word) (s : State) {i j : Input} (h : i.ready = j.ready) (l m : List Input) :
    endEdge (emitEdge w (s.sampled (j :: m))) =
      mapNext (·.sampled m) (endEdge (emitEdge w (s.sampled (i :: l)))) := by
  obtain ⟨hp, he⟩ | ⟨hp, hx, he⟩ | ⟨hp, hx, hs, he⟩ | ⟨hp, hx, hs, he⟩ := emitEdge_cases w (s.sampled (i :: l)) <;>
    rw [he]
  · rw [emitEdge_outside (s := s.sampled (j :: m)) hp]
    rfl
  · rw [emitEdge_beyond (s := s.sampled (j :: m)) hp hx]
    rfl
  · rw [emitEdge_ready (s := s.sampled (j :: m)) hp hx (h ▸ hs), accept_sampled, accept_sampled]
    rfl
  · rw [emitEdge_stalled (s := s.sampled (j :: m)) hp hx (h ▸ hs)]
    rfl

theorem modeRow_sampled {s : State} (hp : s.phase = .emit) {i j : Input} (h : i.ready = j.ready) (l m : List Input) :
    endEdge (exec (modeRow (actionMode (s.sampled (j :: m)).act)) (s.sampled (j :: m))) =
      mapNext (·.sampled m) (endEdge (exec (modeRow (actionMode (s.sampled (i :: l)).act)) (s.sampled (i :: l)))) := by
  by_cases hc : actionMode s.act = .uniformColor ∧ actionChan s.act = .reserved
  · rw [exec_modeRow_refused (s := s.sampled (j :: m)) hp hc, exec_modeRow_refused (s := s.sampled (i :: l)) hp hc]
    rfl
  · rw [exec_modeRow_offers (s := s.sampled (j :: m)) hp hc, exec_modeRow_offers (s := s.sampled (i :: l)) hp hc]
    exact emitEdge_sampled _ s h l m

theorem waitEdge_sampled (p : Phase) (s : State) {i j : Input} (h : i.tick = j.tick) (l m : List Input) :
    (waitEdge p (s.sampled (j :: m))).consume = (waitEdge p (s.sampled (i :: l))).consume.sampled m := by
  obtain ⟨ht, he⟩ | ⟨ht, hs, he⟩ | ⟨ht, hs, he⟩ := waitEdge_cases p (s.sampled (i :: l)) <;> rw [he]
  · rw [waitEdge_over (s := s.sampled (j :: m)) p ht]
    rfl
  · rw [waitEdge_tick (s := s.sampled (j :: m)) p ht (h ▸ hs)]
    rfl
  · rw [waitEdge_noTick (s := s.sampled (j :: m)) p ht (h ▸ hs)]
    rfl

/-! ### The step under two samples -/

/-- An edge depends on its sample through what it reads of it, and hands the samples after it on as they are (R275,
R35). -/
theorem step_sampled {s : State} {i j : Input} (h : ReadAlike s i j) (l m : List Input) :
    step (s.sampled (j :: m)) = mapNext (·.sampled m) (step (s.sampled (i :: l))) := by
  cases hw : cfgWf s.cfg with
  | false =>
    rw [step_illFormed (s := s.sampled (i :: l)) hw, step_illFormed (s := s.sampled (j :: m)) hw]
    rfl
  | true =>
    obtain ⟨hi, hj⟩ | ⟨hi, hj, ⟨hp, hk⟩ | ⟨hp, hs⟩ | ⟨hp | hp, ht⟩⟩ := h
    · rw [step_reset (s := s.sampled (i :: l)) hw hi, step_reset (s := s.sampled (j :: m)) hw hj]
      rfl
    · rw [step_poll (s := s.sampled (i :: l)) hw hi hp, step_poll (s := s.sampled (j :: m)) hw hj hp]
      exact poll_sampled s hk l m
    · rw [step_emit_modeRow (s := s.sampled (i :: l)) hw hi hp, step_emit_modeRow (s := s.sampled (j :: m)) hw hj hp]
      exact modeRow_sampled hp hs l m
    · rw [step_gap (s := s.sampled (i :: l)) hw hi hp, step_gap (s := s.sampled (j :: m)) hw hj hp,
        waitEdge_sampled _ s ht l]
      rfl
    · rw [step_hold (s := s.sampled (i :: l)) hw hi hp, step_hold (s := s.sampled (j :: m)) hw hj hp,
        waitEdge_sampled _ s ht l]
      rfl

/-- Settles O35: the two samples are read alike, and the samples after them are the same. -/
theorem eachPhaseReadsOneInput : Obligations.EachPhaseReadsOneInput := by
  intro s i j rest h
  exact (step_sampled (readAlike_refl s i) rest rest).trans (step_sampled h rest rest).symm

/-- Settles O34: a key command outside POLL answers its state, and outside POLL the key port is not read. -/
theorem keysAreNotSeenWhileBusy : Obligations.KeysAreNotSeenWhileBusy := by
  refine ⟨fun k s hp => ?command, fun s i rest v code hp => ?port⟩
  case command => rw [exec_keyInstr, pressKey_busy hp]
  case port => exact eachPhaseReadsOneInput s _ _ rest (readAlike_keys hp i v code)

end Sys2Proof.Machine
end

section
/-! SUPPORT. What a table word can be, and the states that place one where the next step runs it (log 7, log 16); and
the statement about placed words, settled. -/

namespace Sys2Proof.Machine

/-! ### The states that place a command, a word or an Action -/

/-- The placed command stands on the key port. -/
theorem withCommand_portCommand (s : State) (w : BitVec 5) : portCommand (s.withCommand w).now = w :=
  keyWord_eq_append w

/-- A placed command runs at the next edge. -/
theorem step_withCommand {s : State} (hw : cfgWf s.cfg = true) (w : BitVec 5) :
    step (s.withCommand w) = endEdge (exec (decodeKey w) (s.withCommand w)) := by
  rw [step_poll (s := s.withCommand w) hw rfl rfl, withCommand_portCommand]

/-- A placed color word is the first word of the fill with its colour. -/
theorem step_withWord {s : State} (hw : cfgWf s.cfg = true) (g r b : Code) :
    step (s.withWord g r b) = endEdge (exec (.colorword g r b) (s.withWord g r b)) := by
  have hword : word s.cfg (.fillSolid (colorOfCodes r g b)) 0 0 = packWord g r b :=
    (word_solidFill rfl rfl _ _ _).trans (encodeColor_colorOfCodes r g b)
  rw [step_emit (s := s.withWord g r b) hw rfl rfl rfl]
  exact congrArg (fun w => endEdge (emitEdge w (s.withWord g r b))) hword

theorem bindRead_bindSet (c : Cfg) (a : Action) : bindRead { c with bind := c.bind.set 0 a } .k0 = a := by
  simp [bindRead, KeyCode.code]

/-- Binding an Action keeps a configuration well-formed exactly if the Action is (R146). -/
theorem cfgWf_bindSet {c : Cfg} (hw : cfgWf c = true) (a : Action) :
    cfgWf { c with bind := c.bind.set 0 a } = actionWf c a := by
  have hact : ∀ x, actionWf { c with bind := c.bind.set 0 a } x = actionWf c x := fun x => by cases x <;> rfl
  cases ha : actionWf c a with
  | false =>
    refine Bool.eq_false_iff.mpr fun h => ?_
    have hb := actionWf_bindRead h .k0
    rw [bindRead_bindSet, hact, ha] at hb
    cases hb
  | true =>
    simp only [cfgWf, Bool.and_eq_true, List.all_eq_true, Vector.mem_toList_iff] at hw ⊢
    obtain ⟨hseq, hbind⟩ := hw
    refine ⟨hseq, fun x hx => ?_⟩
    rw [hact]
    obtain hx | rfl := Vector.mem_or_eq_of_mem_set hx
    · exact hbind x hx
    · exact ha

/-- A placed Action is dispatched from the binding ROM as its descriptor dispatches it, or refused with it. -/
theorem step_withAction {s : State} (hw : cfgWf s.cfg = true) (a : Action) :
    step (s.withAction a) = endEdge (runAction a (s.withAction a)) := by
  have hcfg : cfgWf (s.withAction a).cfg = actionWf s.cfg a := cfgWf_bindSet hw a
  cases ha : actionWf s.cfg a with
  | false =>
    rw [runAction_illFormed (s := s.withAction a) rfl ha, step_illFormed (hcfg.trans ha)]
    rfl
  | true =>
    have hbind : bindRead (s.withAction a).cfg .k0 = a := bindRead_bindSet s.cfg a
    have hstep : step (s.withAction a) = endEdge (exec (keyInstr .k0) (s.withAction a)) :=
      step_withCommand (hcfg.trans ha) (encodeKey .k0)
    rw [hstep, exec_keyInstr, pressKey_poll (s := s.withAction a) rfl, hbind,
      runAction_poll (s := s.withAction a) rfl ha]

/-! ### The table's words (log 7) -/

/-- A number that decodes in a format fits its width. -/
theorem lt_of_decode {f : Format} {n : Nat} {i : Instr} (h : (decode f n).toOption = some i) : n < 2 ^ f.width := by
  by_contra hn
  simp [decode, not_lt.mp hn, Except.toOption] at h

theorem colorword_of_decode_cw {n : Nat} {i : Instr} (h : (decode .cw n).toOption = some i) :
    ∃ g r b, i = .colorword g r b := by
  rw [decode, if_neg (lt_of_decode h).not_ge] at h
  dsimp only [decodeWord] at h
  split at h
  · exact ⟨_, _, _, (Option.some.inj h).symm⟩
  · cases h

theorem descriptor_of_decode_act {n : Nat} {i : Instr} (h : (decode .act n).toOption = some i) :
    i = .actNoop ∨ i = .actTurnoff ∨ (∃ cr cg cb, i = .actFillsolid cr cg cb) ∨
      ∃ seq mode chan cr cg cb, i = .actPlaysequence seq mode chan cr cg cb := by
  rw [decode, if_neg (lt_of_decode h).not_ge] at h
  dsimp only [decodeAct] at h
  split at h
  · exact .inl (Option.some.inj h).symm
  · exact .inr (.inl (Option.some.inj h).symm)
  · exact .inr (.inr (.inl ⟨_, _, _, (Option.some.inj h).symm⟩))
  · split_ifs at h
    · cases h
    · cases h
    · exact .inr (.inr (.inr ⟨_, _, _, _, _, _, (Option.some.inj h).symm⟩))

/-- What a table word can be: the key port's value, a color word or an Action descriptor (log 7). -/
theorem decodeTableWord_cases {nbits w : Nat} {i : Instr} (h : decodeTableWord nbits w = some i) :
    i = decodeKey (BitVec.ofNat 5 w) ∨ (∃ g r b, i = .colorword g r b) ∨ i = .actNoop ∨ i = .actTurnoff ∨
      (∃ cr cg cb, i = .actFillsolid cr cg cb) ∨
      ∃ seq mode chan cr cg cb, i = .actPlaysequence seq mode chan cr cg cb := by
  unfold decodeTableWord tableFormat at h
  split_ifs at h
  · have hdec : decode .key (w % 32) = .ok (decodeKey (BitVec.ofNat 5 w)) := by
      rw [← decode_key, BitVec.toNat_ofNat]
    rw [hdec] at h
    exact .inl (Option.some.inj h).symm
  · exact .inr (.inl (colorword_of_decode_cw h))
  · exact .inr (.inr (descriptor_of_decode_act h))

theorem withFetchWord_key {nbits w : Nat} {v : BitVec 5} (h : decodeTableWord nbits w = some (decodeKey v))
    (s : State) :
    s.withFetchWord nbits w = s.withCommand (BitVec.ofNat 5 w) := by
  unfold State.withFetchWord
  rw [h]
  cases hv : v.getLsbD 4 with
  | false => rw [decodeKey_of_invalid hv]
  | true =>
    rw [decodeKey_of_valid hv (KeyCode.code_ofCode _).symm]
    cases KeyCode.ofCode (v.extractLsb' 0 4) <;> rfl

/-- Settles O25: a key word is the command of the next poll, a color word the first word of a fill, and a descriptor the
binding of the key that is shown. -/
theorem placedTableWordRunsNext : Obligations.PlacedTableWordRunsNext := by
  intro s nbits w i hw h
  obtain rfl | ⟨g, r, b, rfl⟩ | rfl | rfl | ⟨cr, cg, cb, rfl⟩ | ⟨seq, mode, chan, cr, cg, cb, rfl⟩ :=
    decodeTableWord_cases h
  · rw [withFetchWord_key h]
    exact step_withCommand hw _
  all_goals
    unfold State.withFetchWord
    rw [h]
  · exact step_withWord hw g r b
  · exact step_withAction hw _
  · exact step_withAction hw _
  · exact step_withAction hw _
  · exact step_withAction hw _

end Sys2Proof.Machine
end

section
/-! SUPPORT. Runs under an endless supply of samples: a measure that every edge of a busy block lowers unless it waits
for its wire; and the statements about fair runs and about the trace of a run, settled. -/

namespace Sys2Proof.Machine

/-! ### Runs under an endless supply (R259, R316) -/

/-- Some run on the supply ends in a state with a property. -/
def Arrives (P : State → Prop) (inputs : Nat → Input) (s : State) : Prop :=
  ∃ n t, runSteps n (s.feed inputs n) = .next t ∧ P t

theorem arrives_now {P : State → Prop} {inputs : Nat → Input} {s : State} (h : P (s.feed inputs 0)) :
    Arrives P inputs s := ⟨0, _, rfl, h⟩

/-- The supply with its first sample gone. -/
def laterInputs (inputs : Nat → Input) (i : Nat) : Input := inputs (i + 1)

theorem feed_succ (s : State) (inputs : Nat → Input) (n : Nat) :
    s.feed inputs (n + 1) = s.sampled (inputs 0 :: (List.range n).map (laterInputs inputs)) := by
  simp only [State.feed, State.sampled, List.range_succ_eq_map, List.map_cons, List.map_map]
  rfl

/-- A first edge on the first sample, then a run on the others. -/
theorem arrives_next {P : State → Prop} {inputs : Nat → Input} {s u : State}
    (hs : step (s.sampled [inputs 0]) = .next u) (h : Arrives P (laterInputs inputs) u) : Arrives P inputs s := by
  obtain ⟨n, t, hrun, ht⟩ := h
  refine ⟨n + 1, t, ?_, ht⟩
  have hstep : step (s.feed inputs (n + 1)) = .next (u.feed (laterInputs inputs) n) := by
    rw [feed_succ, step_sampled (readAlike_refl s (inputs 0)) [], hs]
    rfl
  rw [runSteps_succ n hstep, hrun]

theorem fair_later {inputs : Nat → Input} (h : Fair inputs) : Fair (laterInputs inputs) := by
  obtain ⟨hrst, hready, htick⟩ := h
  have hlater : ∀ wire : Input → Bool, (∀ i, ∃ j, i ≤ j ∧ wire (inputs j) = true) →
      ∀ i, ∃ j, i ≤ j ∧ wire (laterInputs inputs j) = true := by
    intro wire hw i
    obtain ⟨j, hij, hj⟩ := hw (i + 1)
    exact ⟨j - 1, by omega, by rwa [laterInputs, Nat.sub_add_cancel (by omega)]⟩
  exact ⟨fun i => hrst (i + 1), hlater _ hready, hlater _ htick⟩

/-! ### What a busy block waits for, and how much it has left to do -/

/-- Whether a sample lets the edge do something: the sink in EMIT, the tick in a wait that is not over (R174 to
R176). -/
def letsEdge (s : State) (i : Input) : Bool :=
  match s.phase with
  | .emit => i.ready
  | .gap | .hold => s.tmr == 0 || i.tick
  | .poll => true

/-- Fair inputs let the edge do something in the end. -/
theorem fair_letsEdge {inputs : Nat → Input} (h : Fair inputs) (s : State) : ∃ j, letsEdge s (inputs j) = true := by
  obtain ⟨-, hready, htick⟩ := h
  obtain ⟨j, -, hj⟩ := hready 0
  obtain ⟨k, -, hk⟩ := htick 0
  cases hp : s.phase with
  | poll => exact ⟨0, by simp [letsEdge, hp]⟩
  | emit => exact ⟨j, by simp [letsEdge, hp, hj]⟩
  | gap | hold => exact ⟨k, by simp [letsEdge, hp, hk]⟩

/-- The edges still to be made by a wait: its ticks and the edge that leaves it. -/
def waitLeft (s : State) : Nat :=
  match s.phase with
  | .gap | .hold => s.tmr.toNat + 1
  | .poll | .emit => 0

/-- The work left: first the events owed, then the wait in progress, which is below `2 ^ 16 + 1` edges. -/
def workLeft (s : State) : Nat := (owed s).length * (2 ^ 16 + 1) + waitLeft s

theorem waitLeft_le (s : State) : waitLeft s ≤ 2 ^ 16 := by
  unfold waitLeft
  have := s.tmr.isLt
  cases s.phase <;> simp <;> omega

/-- Fewer events owed is less work, whatever wait begins. -/
theorem workLeft_lt_of_owed {s t : State} (h : (owed t).length < (owed s).length) : workLeft t < workLeft s := by
  have := waitLeft_le t
  unfold workLeft
  omega

/-- A tick counts the timer down without wrapping (R256). -/
theorem timer_sub_one {x : BitVec 16} (h : x ≠ 0) : (x - 1).toNat + 1 = x.toNat := by
  bv_omega

/-- A waiting edge that its sample lets do something counts the wait down or ends it; any other changes nothing. -/
theorem waitEdge_workLeft {p : Phase} {s : State} (hs : s.phase = .gap ∨ s.phase = .hold)
    (hp : p = .emit ∨ p = .poll) (howed : owed (waitEdge p s) = owed s) :
    (letsEdge s s.now = true → workLeft (waitEdge p s) < workLeft s) ∧
      (letsEdge s s.now = false → waitEdge p s = s) := by
  have hlets : letsEdge s s.now = (s.tmr == 0 || s.now.tick) := by obtain hs | hs := hs <;> simp [letsEdge, hs]
  have hwait : ∀ t : State, t.phase = s.phase → waitLeft t = t.tmr.toNat + 1 := fun t ht => by
    obtain hs | hs := hs <;> simp [waitLeft, ht, hs]
  have hless : waitLeft (waitEdge p s) < waitLeft s → workLeft (waitEdge p s) < workLeft s := fun h => by
    simpa [workLeft, howed] using h
  rw [hlets]
  obtain ⟨h0, he⟩ | ⟨h0, ht, he⟩ | ⟨h0, ht, he⟩ := waitEdge_cases p s
  · refine ⟨fun _ => hless ?_, fun h => by simp [h0] at h⟩
    rw [hwait s rfl, he]
    obtain rfl | rfl := hp <;> exact Nat.succ_pos _
  · refine ⟨fun _ => hless ?_, fun h => by simp [ht] at h⟩
    rw [hwait s rfl, hwait (waitEdge p s) (by rw [he]), he]
    have := timer_sub_one h0
    dsimp only
    omega
  · exact ⟨fun h => absurd (by simpa [ht] using h) h0, fun _ => he⟩

/-- An accepted word leaves fewer events owed: the trace has grown and the settled trace has not. -/
theorem accept_owed_lt {s : State} (hi : s.Inv) (hp : s.phase = .emit) :
    (owed (accept (word s.cfg s.act s.frm.toNat s.pix.toNat) s)).length < (owed s).length := by
  have hset := congrArg List.length (settledTrace_accept hi hp)
  simp only [settledTrace, List.length_append] at hset
  obtain ht | ⟨d, ht⟩ := accept_trace (word s.cfg s.act s.frm.toNat s.pix.toNat) s <;>
    simp only [ht, List.length_append, List.length_cons] at hset <;> omega

/-- A wait owes what it owed before its edge. -/
theorem owed_waitEdge {p : Phase} {s : State} (h : settledTrace (waitEdge p s) = settledTrace s) :
    owed (waitEdge p s) = owed s := by
  simpa [settledTrace, waitEdge_trace] using h

/-- An edge of a busy block that its sample lets do something leaves less work; any other only consumes the sample. -/
theorem Edge.workLeft_lt {s t : State} (h : Edge s t) (hi : s.Inv) (hr : s.now.rst = false) (hp : s.phase ≠ .poll) :
    (letsEdge s s.now = true → workLeft t < workLeft s) ∧ (letsEdge s s.now = false → t = s.consume) := by
  cases h with
  | reset hrst => simp [hr] at hrst
  | noKey _ hpoll | key _ hpoll => exact absurd hpoll hp
  | stall _ he _ hs => exact ⟨fun h => by simp [letsEdge, he, hs] at h, fun _ => rfl⟩
  | send _ he _ hs =>
    exact ⟨fun _ => workLeft_lt_of_owed (accept_owed_lt hi he), fun h => by simp [letsEdge, he, hs] at h⟩
  | gap _ hg =>
    obtain ⟨hlt, hstay⟩ := waitEdge_workLeft (.inl hg) (.inl rfl) (owed_waitEdge (settledTrace_gapEdge hg))
    exact ⟨hlt, fun h => congrArg State.consume (hstay h)⟩
  | hold _ hh =>
    obtain ⟨hlt, hstay⟩ := waitEdge_workLeft (.inr hh) (.inr rfl) (owed_waitEdge (settledTrace_holdEdge hh))
    exact ⟨hlt, fun h => congrArg State.consume (hstay h)⟩

/-! ### A busy block gets on -/

/-- One edge of a busy block: it keeps the Action and the settled trace, and can leave for POLL from HOLD only. -/
theorem step_busy {s : State} {i : Input} (hi : s.Inv) (hr : i.rst = false) (hp : s.phase ≠ .poll) :
    ∃ u, step (s.sampled [i]) = .next u ∧ u.Inv ∧ u.act = s.act ∧ settledTrace u = settledTrace s ∧
      (u.phase = .poll → s.phase = .hold) ∧
      (letsEdge s i = true → workLeft u < workLeft s) ∧ (letsEdge s i = false → u = (s.sampled [i]).consume) := by
  have hinv : (s.sampled [i]).Inv := hi
  obtain ⟨u, hu⟩ := invariantStatesAlwaysStep _ hinv
  have hedge := edge_of_step hu
  have hact : u.act = s.act := by
    by_contra hne
    obtain ⟨hrst, -⟩ | ⟨-, hpoll, -⟩ := onlyDispatchAndResetWriteAct _ _ hu hne
    · exact Bool.false_ne_true (hr.symm.trans hrst)
    · exact hp hpoll
  have hset : settledTrace u = settledTrace s := by
    have h := hedge.settledTrace_eq hinv hr
    rwa [edgeAnswers, if_neg (show (s.sampled [i]).phase ≠ .poll from hp), runEvents, List.flatMap_nil,
      List.append_nil] at h
  have hpoll : u.phase = .poll → s.phase = .hold := fun h => by
    obtain hrst | ⟨hpoll, -⟩ | ⟨hhold, -⟩ := hedge.phase_eq_poll_iff.mp h
    · exact absurd (hr.symm.trans hrst) Bool.false_ne_true
    · exact absurd hpoll hp
    · exact hhold
  exact ⟨u, hu, hedge.inv hinv, hact, hset, hpoll, hedge.workLeft_lt hinv hr hp⟩

/-- `t` stands in a phase and has the Action and the settled trace of `s`. -/
def ArrivedIn (p : Phase) (s t : State) : Prop := t.phase = p ∧ t.act = s.act ∧ settledTrace t = settledTrace s

/-- A busy block arrives if it does after one edge, which leaves less work or waits for a wire. -/
theorem arrives_of_edge {p : Phase} {s : State} {inputs : Nat → Input} (hp : p = .hold ∨ p = .poll) (hi : s.Inv)
    (hr : (inputs 0).rst = false) (hs : s.phase ≠ .poll) (hsp : s.phase ≠ p)
    (h : ∀ u : State, u.Inv → u.phase ≠ .poll ∨ u.phase = p →
      workLeft u < workLeft s ∨ (letsEdge s (inputs 0) = false ∧ u = (s.sampled [inputs 0]).consume) →
      Arrives (ArrivedIn p u) (laterInputs inputs) u) :
    Arrives (ArrivedIn p s) inputs s := by
  obtain ⟨u, hu, hinv, hact, hset, hpoll, hless, hstay⟩ := step_busy hi hr hs
  have hphase : u.phase ≠ .poll ∨ u.phase = p := by
    obtain rfl | rfl := hp
    · exact .inl fun hu => hsp (hpoll hu)
    · exact ne_or_eq _ _
  have hwork : workLeft u < workLeft s ∨ (letsEdge s (inputs 0) = false ∧ u = (s.sampled [inputs 0]).consume) := by
    cases hl : letsEdge s (inputs 0) with
    | true => exact .inl (hless hl)
    | false => exact .inr ⟨rfl, hstay hl⟩
  have hrun := h u hinv hphase hwork
  unfold ArrivedIn at hrun ⊢
  rw [hact, hset] at hrun
  exact arrives_next hu hrun

/-- Under fair inputs a busy block arrives in HOLD before it is in POLL, and in POLL, with the events paid that it owed:
by induction on the work left, and for equal work on the samples until its wire is high (R177, R228). -/
theorem arrives_of_busy {p : Phase} {s : State} {inputs : Nat → Input} (hp : p = .hold ∨ p = .poll) (hi : s.Inv)
    (hf : Fair inputs) (hs : s.phase ≠ .poll ∨ s.phase = p) : Arrives (ArrivedIn p s) inputs s := by
  induction hw : workLeft s using Nat.strong_induction_on generalizing s inputs with
  | _ w ih =>
    subst hw
    obtain ⟨j, hj⟩ := fair_letsEdge hf s
    induction j generalizing s inputs with
    | zero =>
      by_cases hsp : s.phase = p
      · exact arrives_now ⟨hsp, rfl, rfl⟩
      · refine arrives_of_edge hp hi (hf.1 0) (hs.resolve_right hsp) hsp fun u hinv hphase hwork => ?_
        obtain hless | ⟨hl, -⟩ := hwork
        · exact ih _ hless hinv (fair_later hf) hphase rfl
        · exact absurd (hj.symm.trans hl) (by simp)
    | succ j ihj =>
      by_cases hsp : s.phase = p
      · exact arrives_now ⟨hsp, rfl, rfl⟩
      · refine arrives_of_edge hp hi (hf.1 0) (hs.resolve_right hsp) hsp fun u hinv hphase hwork => ?_
        obtain hless | ⟨-, rfl⟩ := hwork
        · exact ih _ hless hinv (fair_later hf) hphase rfl
        · exact ihj hinv (fair_later hf) hphase ih hj

/-! ### Fair runs (R177, R228) -/

/-- Settles O56: at an Action's first word exactly its events and the wait of the hold are owed, and in HOLD nothing
is. -/
theorem playRefinesItsEvents : Obligations.PlayRefinesItsEvents := by
  intro s inputs hi hp hrep hfrm hpix hf
  have ⟨_, _, _, hplay, _⟩ := hi
  obtain ⟨hwords, -⟩ := hplay (.inl hp)
  have howed : owed s = events s.cfg s.act ++ [.sleep 200] := by
    rw [owed_playing (.inl hp), hrep, hfrm, hpix, events_eq_playFrom hwords]
    rfl
  obtain ⟨n, t, hrun, ht, hact, hset⟩ := arrives_of_busy (.inl rfl) hi hf (.inl (by simp [hp]))
  refine ⟨n, t, hrun, ht, hact, ?_⟩
  rw [← settledTrace_idle (.inr ht), hset, settledTrace, howed, List.append_assoc]

/-- Settles O57: the dispatch owes `exec(k)`, and a busy block arrives in POLL, where nothing is owed. -/
theorem handledKeyReturnsToPoll : Obligations.HandledKeyReturnsToPoll := by
  intro s inputs k hi hp hk hf
  have hinv : (s.sampled [inputs 0]).Inv := hi
  have hstep : step (s.sampled [inputs 0]) = .next (dispatch (bindRead s.cfg k) (s.sampled [inputs 0])).consume :=
    step_poll_key hi.1 (hf.1 0) hp hk
  have hrun : Arrives (ArrivedIn .poll (dispatch (bindRead s.cfg k) (s.sampled [inputs 0])).consume) inputs s :=
    arrives_next hstep (arrives_of_busy (.inr rfl) ((edge_of_step hstep).inv hinv) (fair_later hf)
      (.inl (dispatch_phase_ne_poll _ _)))
  obtain ⟨n, t, hrun, ht, hact, hset⟩ := hrun
  refine ⟨n, t, hrun, ht, hact.trans (dispatch_frame _ _).1, ?_⟩
  rw [← settledTrace_idle (.inl ht), hset, settledTrace_consume, settledTrace_dispatch]
  rfl

/-- Settles O58: the trace is the first part of the settled trace, which grows by what the answers add, and in POLL and
HOLD it is the whole. -/
theorem runRefinesItsAnswers : Obligations.RunRefinesItsAnswers := by
  intro s t n hi hp hn hrun
  have hset := runSteps_settledTrace hi hn hrun
  rw [settledTrace_idle (.inl hp)] at hset
  exact ⟨⟨owed t, hset⟩, fun ht => (settledTrace_idle ht).symm.trans hset⟩

end Sys2Proof.Machine
end

section
/-! SUPPORT. The state after so many edges of a wait or of a frame, in terms of the ticks or the ready edges among them;
and the statements about them, settled. -/

namespace Sys2Proof.Machine

/-! ### Runs with their last edge counted apart -/

theorem runSteps_one (s : State) : runSteps 1 s = step s := by
  simp only [runSteps, Host.Core.run, core]
  cases step s <;> rfl

theorem runSteps_last {n : Nat} {s t : State} (h : runSteps n s = .next t) : runSteps (n + 1) s = step t := by
  induction n generalizing s with
  | zero =>
    cases h
    exact runSteps_one t
  | succ n ih =>
    obtain ⟨u, hs, hu⟩ := runSteps_succ_eq_next h
    rw [runSteps_succ (n + 1) hs, ih hu]

/-- The last edge counted apart. -/
theorem highEdges_last (wire : Input → Bool) (s : State) (n : Nat) :
    s.highEdges wire (n + 1) = s.highEdges wire n + (if wire (s.inputAt n) then 1 else 0) := by
  simp [State.highEdges, List.range_succ, List.countP_append, List.countP_singleton]

theorem consume_skip (s : State) (n : Nat) : (s.skip n).consume = s.skip (n + 1) := by
  simp [State.skip, State.consume, List.tail_drop, Nat.add_assoc]

/-! ### A wait (R256) -/

/-- Where a wait goes when it is over: from GAP on to the next frame, from HOLD back to POLL (R176, R207). -/
def afterWait (s : State) : Phase := if s.phase = .gap then .emit else .poll

theorem step_wait {s : State} (hw : cfgWf s.cfg = true) (hr : s.now.rst = false)
    (hp : s.phase = .gap ∨ s.phase = .hold) :
    step s = .next (waitEdge (afterWait s) s).consume := by
  obtain hp | hp := hp
  · rw [step_gap hw hr hp, afterWait, if_pos hp]
  · rw [step_hold hw hr hp, afterWait, if_neg (by simp [hp])]

/-- The state with `k` ticks counted. -/
def State.ticked (s : State) (k : Nat) : State := { s with tmr := s.tmr - BitVec.ofNat 16 k }

theorem ticked_tmr {s : State} {k : Nat} (h : k ≤ s.tmr.toNat) : (s.ticked k).tmr.toNat = s.tmr.toNat - k := by
  have := s.tmr.isLt
  simp only [State.ticked]
  bv_omega

theorem ticked_succ (s : State) (k : Nat) : s.ticked (k + 1) = { s.ticked k with tmr := (s.ticked k).tmr - 1 } := by
  simp only [State.ticked, BitVec.ofNat_add, sub_add_eq_sub_sub]
  rfl

/-- While ticks are still to come, every edge counts its tick, if there is one, and nothing else (R176, R207). -/
theorem runSteps_wait {s : State} {n : Nat} (hw : cfgWf s.cfg = true) (hp : s.phase = .gap ∨ s.phase = .hold)
    (hn : s.NoReset n) (h : ∀ m, m < n → s.highEdges Input.tick m < s.tmr.toNat) :
    s.highEdges Input.tick n ≤ s.tmr.toNat ∧
      runSteps n s = .next ((s.ticked (s.highEdges Input.tick n)).skip n) := by
  induction n with
  | zero => exact ⟨Nat.zero_le _, by simp [State.ticked]⟩
  | succ n ih =>
    obtain ⟨-, hrun⟩ := ih (fun i hin => hn i (hin.trans n.lt_succ_self)) fun m hm => h m (hm.trans n.lt_succ_self)
    have hlt := h n n.lt_succ_self
    have htmr : ((s.ticked (s.highEdges Input.tick n)).skip n).tmr ≠ 0 := fun h0 => by
      have := (ticked_tmr hlt.le).symm.trans (congrArg BitVec.toNat h0)
      simp at this
      omega
    have hnow : ((s.ticked (s.highEdges Input.tick n)).skip n).now = s.inputAt n := now_skip _ n
    have hr : ((s.ticked (s.highEdges Input.tick n)).skip n).now.rst = false := hnow ▸ hn n n.lt_succ_self
    rw [runSteps_last hrun, highEdges_last, step_wait (s := (s.ticked _).skip n) hw hr hp]
    cases ht : (s.inputAt n).tick with
    | true =>
      rw [waitEdge_tick _ htmr (hnow ▸ ht), if_pos rfl, ticked_succ, ← consume_skip]
      exact ⟨hlt, rfl⟩
    | false =>
      rw [waitEdge_noTick _ htmr (hnow ▸ ht), consume_skip]
      exact ⟨hlt.le, rfl⟩

/-- Settles O46: the run stands at the wait with its ticks counted, and the edge that finds none to come leaves it. -/
theorem waitEndsAfterItsTicks : Obligations.WaitEndsAfterItsTicks := by
  intro s n hw hp hn h
  obtain ⟨hle, hrun⟩ := runSteps_wait hw hp hn h
  refine ⟨⟨_, hrun, rfl, rfl, hle, ticked_tmr hle⟩, fun heq hn' => ?leaves⟩
  case leaves =>
    have htmr : (s.ticked (s.highEdges Input.tick n)).tmr = 0 :=
      BitVec.eq_of_toNat_eq ((ticked_tmr hle).trans (Nat.sub_eq_zero_of_le heq.ge))
    have hr : ((s.ticked (s.highEdges Input.tick n)).skip n).now.rst = false := now_skip _ n ▸ hn' n n.lt_succ_self
    rw [runSteps_last hrun, step_wait (s := (s.ticked _).skip n) hw hr hp,
      waitEdge_over (s := (s.ticked _).skip n) _ htmr]
    exact ⟨_, rfl, rfl, rfl⟩

/-! ### The end of the hold (R209, R275(d)) -/

/-- The state with the hold left for POLL (R207). -/
def State.waitOver (s : State) : State := { s with phase := .poll }

/-- Settles O54: the hold's last edge leaves for POLL without reading the key port, and the next edge is a poll. -/
theorem heldKeyIsDispatchedAgain : Obligations.HeldKeyIsDispatchedAgain := by
  intro s k hi hp ht hn hk
  have ⟨hcfg, _⟩ := hi
  have hnow : (s.waitOver.consume).now = s.inputAt 1 := inputAt_consume _ 0
  have hfirst : runSteps 1 s = .next s.waitOver.consume := by
    rw [runSteps_one, step_hold hcfg (hn 0 (by decide)) hp, waitEdge_over _ ht]
    rfl
  have hsecond : runSteps 2 s = .next (dispatch (bindRead s.cfg k) s.waitOver.consume).consume := by
    rw [runSteps_last hfirst, step_poll_key (s := s.waitOver.consume) hcfg (hnow ▸ hn 1 (by decide)) rfl (hnow ▸ hk)]
    rfl
  exact ⟨⟨_, hfirst, rfl, rfl⟩, ⟨_, hsecond, (dispatch_frame _ _).1,
    (dstate_eq_debounce_iff _).mpr (dispatch_phase_ne_poll _ _)⟩⟩

/-! ### A frame as the sink takes it (R33, R174, R175) -/

/-- The words of the latched Action's frame in progress, output index 0 first. -/
def frameWords (s : State) (r : Nat) : List Word := (List.range r).map (word s.cfg s.act s.frm.toNat)

/-- The state with the first `r` words of the frame taken. -/
def State.taken (s : State) (r : Nat) : State :=
  { s with trace := s.trace ++ (frameWords s r).map .emit, pix := BitVec.ofNat 5 r }

theorem taken_zero {s : State} (hx : s.pix = 0) : s.taken 0 = s := by
  have hpix : BitVec.ofNat 5 0 = s.pix := hx.symm
  simp only [State.taken, frameWords, List.range_zero, List.map_nil, List.append_nil, hpix]

theorem taken_pix {r : Nat} (s : State) (h : r < 25) : (s.taken r).pix.toNat = r := by
  simp only [State.taken, BitVec.toNat_ofNat]
  omega

theorem taken_inv {s : State} {r : Nat} (hi : s.Inv) (hp : s.phase = .emit) (h : r < 25) : (s.taken r).Inv := by
  obtain ⟨hcfg, hact, -, hplay, -⟩ := hi
  refine ⟨hcfg, hact, ?_, hplay, ?_, ?_, ?_⟩
  · rw [taken_pix s h]
    exact Nat.le_of_lt_succ h
  all_goals simp [State.taken, hp]

/-- An edge of EMIT to a ready sink transfers the next word. -/
theorem step_taken_ready {s : State} {r n : Nat} (hi : s.Inv) (hp : s.phase = .emit) (h : r < 25)
    (hr : (s.inputAt n).rst = false) (hs : (s.inputAt n).ready = true) :
    step ((s.taken r).skip n) = .next (accept (word s.cfg s.act s.frm.toNat r) ((s.taken r).skip n)).consume := by
  have ⟨hcfg, hact, _⟩ := hi
  have hnow : ((s.taken r).skip n).now = s.inputAt n := now_skip _ n
  have hpix : ((s.taken r).skip n).pix.toNat = r := taken_pix s h
  rw [step_emit (s := (s.taken r).skip n) hcfg hact (hnow ▸ hr) hp,
    emitEdge_ready (s := (s.taken r).skip n) hp (hpix.le.trans (Nat.le_of_lt_succ h)) (hnow ▸ hs), hpix]
  rfl

/-- An edge of EMIT to a stalled sink transfers nothing. -/
theorem step_taken_stalled {s : State} {r n : Nat} (hi : s.Inv) (hp : s.phase = .emit) (h : r < 25)
    (hr : (s.inputAt n).rst = false) (hs : (s.inputAt n).ready = false) :
    step ((s.taken r).skip n) = .next ((s.taken r).skip n).consume := by
  have hinv : (s.taken r).Inv := taken_inv hi hp h
  have hnow : ((s.taken r).skip n).now = s.inputAt n := now_skip _ n
  exact step_emit_stalled (s := (s.taken r).skip n) hinv hp (hnow ▸ hr) (hnow ▸ hs)

theorem accept_taken {s : State} {r : Nat} (h : r < 24) (n : Nat) :
    accept (word s.cfg s.act s.frm.toNat r) ((s.taken r).skip n) = (s.taken (r + 1)).skip n := by
  have hpix : ((s.taken r).skip n).pix.toNat = r := taken_pix s (by omega)
  rw [accept_midFrame (hpix.trans_lt h)]
  simp [State.taken, State.skip, frameWords, List.range_succ, BitVec.ofNat_add]

/-- Below 25 ready edges, the run stands in the frame with as many of its words taken. -/
theorem runSteps_taken {s : State} {n : Nat} (hi : s.Inv) (hp : s.phase = .emit) (hx : s.pix = 0) (hn : s.NoReset n)
    (h : s.highEdges Input.ready n < 25) :
    runSteps n s = .next ((s.taken (s.highEdges Input.ready n)).skip n) := by
  induction n with
  | zero => simp [taken_zero hx]
  | succ n ih =>
    have hr := hn n n.lt_succ_self
    rw [highEdges_last] at h ⊢
    have hrun := ih (fun i hin => hn i (hin.trans n.lt_succ_self)) (Nat.lt_of_le_of_lt (Nat.le_add_right _ _) h)
    rw [runSteps_last hrun]
    cases hs : (s.inputAt n).ready with
    | true =>
      simp only [hs, if_true] at h
      rw [step_taken_ready hi hp (by omega) hr hs, accept_taken (by omega), consume_skip, if_pos rfl]
    | false =>
      simp only [hs, Bool.false_eq_true, if_false, Nat.add_zero] at h
      rw [step_taken_stalled hi hp h hr hs, consume_skip]
      rfl

/-- The LED string shows the last 25 words (R33, log 13). -/
theorem lastFrame_append {ws : List Word} (h : ws.length = numPix) (t : List Event) :
    lastFrame (t ++ ws.map .emit) = ws := by
  have hlen : (ws.map Event.emit).reverse.length = numPix := by simp [h]
  rw [lastFrame, List.reverse_append, List.take_append_of_le_length hlen.ge, List.take_of_length_le hlen.le,
    List.reverse_reverse, List.filterMap_map]
  exact List.filterMap_some

theorem accept_disp_last {w : Word} {s : State} (h : ¬ s.pix.toNat < lastPix) :
    (accept w s).disp = lastFrame (s.trace ++ [.emit w]) := by
  obtain ⟨hx, -⟩ | ⟨-, -, he⟩ | ⟨-, -, he⟩ := accept_cases w s
  · exact absurd hx h
  · rw [he]; rfl
  · rw [he]; simp [nextFrame_frame]

theorem accept_taken_last (s : State) (n : Nat) :
    (accept (word s.cfg s.act s.frm.toNat 24) ((s.taken 24).skip n)).disp = frameWords s 25 := by
  have hpix : ((s.taken 24).skip n).pix.toNat = 24 := taken_pix s (by omega)
  have htrace : ((s.taken 24).skip n).trace ++ [.emit (word s.cfg s.act s.frm.toNat 24)] =
      s.trace ++ (frameWords s 25).map .emit := by
    simp [State.taken, State.skip, frameWords, List.range_succ]
  rw [accept_disp_last hpix.not_lt, htrace, lastFrame_append (by simp [frameWords, numPix])]

/-- Settles O55: below 25 ready edges the run is inside the frame, and the edge that takes the 25th word shows all
25. -/
theorem displayShowsTheFrameSent : Obligations.DisplayShowsTheFrameSent := by
  intro s n hi hp hx hn
  refine ⟨fun h => ⟨_, runSteps_taken hi hp hx hn h, hp, taken_pix s h, rfl⟩, fun h hfirst => ?complete⟩
  case complete =>
    cases n with
    | zero => cases h
    | succ n =>
      have hlt := hfirst n n.lt_succ_self
      rw [highEdges_last] at h
      have hs : (s.inputAt n).ready = true := by
        by_contra hs
        rw [if_neg hs] at h
        exact hlt.ne h
      rw [if_pos hs] at h
      have h24 : s.highEdges Input.ready n = 24 := Nat.succ.inj h
      have hrun := runSteps_taken hi hp hx (fun i hin => hn i (hin.trans n.lt_succ_self)) hlt
      rw [h24] at hrun
      exact ⟨_, (runSteps_last hrun).trans (step_taken_ready hi hp (by decide) (hn n n.lt_succ_self) hs),
        accept_taken_last s n⟩

end Sys2Proof.Machine
end

section
/-! SUPPORT. The linear image of the frame ROM block by block, and the directory that locates its blocks; and the
statements about them, settled. -/

namespace Sys2Proof.Machine

/-! ### Blocks of a flattened list -/

/-- An element of block `i` of a flattened list stands behind the elements of the blocks before it. -/
theorem getElem?_flatten_block {α : Type} {L : List (List α)} {i k : Nat} {l : List α} (h : L[i]? = some l)
    (hk : k < l.length) : L.flatten[((L.map List.length).take i).sum + k]? = l[k]? := by
  obtain ⟨hi, rfl⟩ := List.getElem?_eq_some_iff.mp h
  rw [← List.getElem?_drop, List.drop_sum_flatten, List.drop_eq_getElem_cons hi, List.flatten_cons,
    List.getElem?_append_left hk]

/-- Block `i` of equal blocks of length `m` begins at `m * i`. -/
theorem getElem?_flatten_equal {α : Type} {L : List (List α)} {m i k : Nat} {l : List α}
    (hm : ∀ x ∈ L, x.length = m) (h : L[i]? = some l) (hk : k < m) : L.flatten[m * i + k]? = l[k]? := by
  obtain ⟨hi, -⟩ := List.getElem?_eq_some_iff.mp h
  have hlen : L.map List.length = List.replicate L.length m := by
    rw [List.eq_replicate_iff]
    simpa using hm
  have hsum : ((L.map List.length).take i).sum = m * i := by
    rw [hlen, List.take_replicate, List.sum_replicate, Nat.min_eq_left hi.le, smul_eq_mul, Nat.mul_comm]
  rw [← hsum]
  exact getElem?_flatten_block h (by rw [hm l (List.mem_of_getElem? h)]; exact hk)

/-! ### The image of a well-formed configuration (R51, R146) -/

/-- The frames of a sequence that its descriptor counts, as a block of the image. -/
def seqBlock (p : SeqDesc × List Frame) : List Entry := (p.2.take p.1.nframes).flatten

theorem romImage_eq (c : Cfg) : romImage c = ((c.seq.toList.zip c.frame.toList).map seqBlock).flatten := rfl

/-- The counted frames of a well-formed sequence have 25 entries each, and none is missing (R146(a)). -/
theorem seqWf_counted {d : SeqDesc} {frames : List Frame} (h : seqWf d frames = true) :
    (frames.take d.nframes).length = d.nframes ∧ ∀ fr ∈ frames.take d.nframes, fr.length = numPix := by
  simp only [seqWf, Bool.and_eq_true, decide_eq_true_eq, List.all_eq_true] at h
  obtain ⟨⟨-, hcount⟩, hframes⟩ := h
  exact ⟨List.length_take_of_le hcount, fun fr hfr => (frameWf_iff.mp (hframes fr hfr)).1⟩

theorem seqBlock_length {d : SeqDesc} {frames : List Frame} (h : seqWf d frames = true) :
    (seqBlock (d, frames)).length = numPix * d.nframes := by
  obtain ⟨hlen, hframes⟩ := seqWf_counted h
  rw [seqBlock, List.length_flatten, List.map_congr_left hframes, List.map_const', List.sum_replicate, hlen,
    smul_eq_mul, Nat.mul_comm]

/-- Every sequence of a well-formed configuration is well-formed with its frames (R146(a), (b)). -/
theorem seqWf_of_mem {c : Cfg} (hw : cfgWf c = true) {p : SeqDesc × List Frame}
    (hp : p ∈ c.seq.toList.zip c.frame.toList) : seqWf p.1 p.2 = true := by
  simp only [cfgWf, Bool.and_eq_true, List.all_eq_true] at hw
  exact hw.1 p hp

/-- The blocks before sequence `q` take up `base[q]` entries. -/
theorem romBase_eq {c : Cfg} (hw : cfgWf c = true) (q : Nat) :
    ((((c.seq.toList.zip c.frame.toList).map seqBlock).map List.length).take q).sum = romBase c q := by
  have hlen : ((c.seq.toList.zip c.frame.toList).map seqBlock).map List.length =
      ((c.seq.toList.zip c.frame.toList).map Prod.fst).map (fun d => numPix * d.nframes) := by
    rw [List.map_map, List.map_map]
    exact List.map_congr_left fun p hp => seqBlock_length (seqWf_of_mem hw hp)
  rw [hlen, List.map_fst_zip (by simp), ← List.map_take, romBase]

/-- The image holds `FrameRead(s, f, p)` at entry `25*f + p` of the block that begins at `base[s]` (R51). -/
theorem romImage_entry {c : Cfg} (hw : cfgWf c = true) {s : SeqId} {d : SeqDesc} {f p : Nat}
    (hd : c.seq[s.toNat]? = some d) (hf : f < d.nframes) (hp : p ≤ 24) :
    (romImage c)[romBase c s.toNat + (25 * f + p)]? = frameRead c s f p := by
  obtain ⟨hlt, -⟩ := Vector.getElem?_eq_some_iff.mp hd
  have hframes : c.frame[s.toNat]? = some c.frame[s.toNat] := Vector.getElem?_eq_getElem hlt
  have hwf := seqWf_of_cfgWf hw hd hframes
  have hblock : ((c.seq.toList.zip c.frame.toList).map seqBlock)[s.toNat]? = some (seqBlock (d, c.frame[s.toNat])) := by
    have hzip : (c.seq.toList.zip c.frame.toList)[s.toNat]? = some (d, c.frame[s.toNat]) := by
      simp [List.getElem?_zip_eq_some, hd, hframes]
    rw [List.getElem?_map, hzip]
    rfl
  obtain ⟨fr, hget, -⟩ := seqWf_frame hwf hf
  obtain ⟨-, hlens⟩ := seqWf_counted hwf
  have hfr : (c.frame[s.toNat].take d.nframes)[f]? = some fr := by rw [List.getElem?_take_of_lt hf, hget]
  have hin : 25 * f + p < (seqBlock (d, c.frame[s.toNat])).length := by
    rw [seqBlock_length hwf, numPix]
    omega
  rw [romImage_eq, ← romBase_eq hw, getElem?_flatten_block hblock hin, seqBlock,
    getElem?_flatten_equal (m := 25) hlens hfr (Nat.lt_succ_of_le hp), frameRead_inside hd hframes hf hp hget]

/-- Settles O12: the blocks before the sequence take up its base, and its frames are blocks of 25. -/
theorem linearLayoutHoldsEveryEntry : Obligations.LinearLayoutHoldsEveryEntry := by
  intro c hw s d f p hd hf hp
  rw [romAddr, Nat.add_assoc]
  exact romImage_entry hw hd hf hp

/-! ### The directory (R87) -/

/-- The base addresses of a well-formed configuration fit the 17 bits of their field (log 17). -/
theorem romBase_lt {c : Cfg} (hw : cfgWf c = true) (q : Nat) : romBase c q < 2 ^ 17 := by
  have hle : ∀ x ∈ (c.seq.toList.take q).map (fun d => numPix * d.nframes), x ≤ 25 * 255 := by
    intro x hx
    obtain ⟨d, hd, rfl⟩ := List.mem_map.mp hx
    obtain ⟨i, hi⟩ := List.mem_iff_getElem?.mp (List.mem_of_mem_take hd)
    obtain ⟨hn, -⟩ := seqCounters_le hw (q := i) (d := d) (by simpa using hi)
    exact Nat.mul_le_mul_left 25 hn
  have hlen : ((c.seq.toList.take q).map (fun d => numPix * d.nframes)).length ≤ 13 := by simp
  calc romBase c q
    _ ≤ ((c.seq.toList.take q).map (fun d => numPix * d.nframes)).length • (25 * 255) := List.sum_le_card_nsmul _ _ hle
    _ ≤ 13 * (25 * 255) := Nat.mul_le_mul_right _ hlen
    _ < 2 ^ 17 := by decide

/-- The directory's entry of a sequence, with its descriptor and base address (R87, R51). -/
theorem romDirectory_entry {c : Cfg} {q : Nat} {d : SeqDesc} (hd : c.seq[q]? = some d) :
    (romDirectory c)[q]? = some (SeqEntry.mk d (romBase c q)).encode := by
  have hl : c.seq.toList[q]? = some d := by simpa using hd
  simp [romDirectory, List.getElem?_zipIdx, hl]

/-- Settles O60: the entry's counters and base address fit their fields, so its word reads back, and the base is where
the sequence's block begins. -/
theorem directoryWordsLocateTheFrames : Obligations.DirectoryWordsLocateTheFrames := by
  intro c hw s d hd
  obtain ⟨hf, hr, hdly⟩ := seqCounters_le hw hd
  have hread := sequenceWordReadsBack ⟨d, romBase c s.toNat⟩ hf hr hdly (romBase_lt hw _)
  refine ⟨_, romDirectory_entry hd, hread, fun f p hf hp => ?entry⟩
  case entry =>
    rw [hread, Nat.add_assoc]
    exact romImage_entry hw hd hf hp

end Sys2Proof.Machine
end

section
/-! SUPPORT. The degenerate shapes and the sum of a handled key's waits, settled from the words and waits of an
Action. -/

namespace Sys2Proof.Machine

theorem words_eq_zero_iff (c : Cfg) (a : Action) : words c a = 0 ↔ nfr c a = 0 ∨ nrep c a = 0 := by
  simp [words, numPix]

/-- Settles O19: no words are owed without a frame or a cycle, waits and words are counted by `nfr * nrep`, and a gap of
no ticks is left at its first edge. -/
theorem degenerateShapes : Obligations.DegenerateShapes := by
  refine ⟨fun c a h => ?empty, fun k s hp hw => ?hold, fun c a h => ?oneFrame, fun c a hd => ?zeroDelay,
    fun s hw hr hp ht => ?gap⟩
  case empty =>
    have hw := (words_eq_zero_iff c a).mpr h
    exact ⟨events_empty hw, hw⟩
  case hold =>
    obtain ⟨hempty, -⟩ := keyDispatchesItsBinding k s hp
    exact ⟨_, hempty hw, rfl, rfl⟩
  case oneFrame =>
    obtain ⟨hsleeps, -⟩ := waitsOnlySeparateFrames c a
    rw [actionEmitsItsWordCount c a, hsleeps, Nat.mul_assoc, h]
    exact ⟨rfl, rfl⟩
  case zeroDelay =>
    obtain ⟨hsleeps, -⟩ := waitsOnlySeparateFrames c a
    exact ⟨hd ▸ hsleeps, actionEmitsItsWordCount c a⟩
  case gap =>
    rw [step_gap hw hr hp, waitEdge_over _ ht]
    exact ⟨_, rfl, rfl, rfl⟩

/-- Settles O22: the waits are those between the frames, all equal, and the hold's. -/
theorem waitsOfAHandledKey : Obligations.WaitsOfAHandledKey := by
  intro c k
  rw [sleeps_keyEvents, List.sum_append, List.sum_replicate, List.sum_singleton, smul_eq_mul]
  split
  case isTrue h =>
    have h0 : nfr c (bindRead c k) * nrep c (bindRead c k) = 0 :=
      Nat.mul_eq_zero.mpr ((words_eq_zero_iff c _).mp h)
    simp [h0]
  case isFalse => rfl

end Sys2Proof.Machine
end
